-- ==== Sys2Proof/Word.lean ====
section
/-! DEFINITION. The word types of NLC-CORE (00_scope.md rules R4, R10) and the two fixed groups of words its datapath passes
around: eight words (the running state `H`, the working registers `r`) and five words (the results of the quantum stage). -/

namespace Sys2Proof

/-- A byte of a message, of `BUF`, of `OUT` or of a window. -/
abbrev Byte := BitVec 8

/-- A word is 32 bits (R10). -/
abbrev Word := BitVec 32

/-- The 64-bit quantities `LEN`, `ARG` and `REM` (10_state.md R25, R26, R27). -/
abbrev Count := BitVec 64

/-- A byte offset in the register space (20_memory.md R50: 16 bits). -/
abbrev Offset := BitVec 16

/-- A transaction serialised as one 64-bit TX word (30_encoding.md R80, R81). -/
abbrev TxWord := BitVec 64

/-- The 64 bytes of one block (R4). -/
abbrev Block := Vector Byte 64

/-- The 32 bytes of one digest (R4). -/
abbrev Digest := Vector Byte 32

/-- Eight words: the running state `H[0..7]` (10_state.md R21) or the working registers `r[0..7]`, aliases `a` to `h`
(R22, R12). -/
structure Words8 where
  x0 : Word
  x1 : Word
  x2 : Word
  x3 : Word
  x4 : Word
  x5 : Word
  x6 : Word
  x7 : Word
deriving DecidableEq, Repr

/-- Five words: the results `v0` to `v4` of the quantum stage (45_quantum.md R180). -/
structure Words5 where
  v0 : Word
  v1 : Word
  v2 : Word
  v3 : Word
  v4 : Word
deriving DecidableEq, Repr

end Sys2Proof
end

