-- ==== Sys2Proof/Syntax.lean ====
section
/-! DEFINITION. The transactions of the host (30_encoding.md R80, R88): one constructor per row of spec/opcode_table.json. -/

namespace Sys2Proof

/-- One well-formed transaction. The base rows carry the offset of R81; the refinement rows (a base row at one offset, R88)
carry only the operand that is left. -/
inductive Instr where
  /-- RD1 off: read one byte (R88). -/
  | rd1 (off : Offset)
  /-- RD2 off: read two bytes (R88). -/
  | rd2 (off : Offset)
  /-- RD4 off: read four bytes (R88). -/
  | rd4 (off : Offset)
  /-- WR1 off, v: write one byte (R88). -/
  | wr1 (off : Offset) (v : BitVec 8)
  /-- WR2 off, v: write two bytes (R88). -/
  | wr2 (off : Offset) (v : BitVec 16)
  /-- WR4 off, v: write four bytes (R88). -/
  | wr4 (off : Offset) (v : BitVec 32)
  /-- RST: the hardware reset event (70_reset_and_hazards.md R300). -/
  | rst
  /-- CMD.RESET: WR4 CMD, 1 (46_streaming.md R210). -/
  | cmdReset
  /-- CMD.FINAL: WR4 CMD, 2 (46_streaming.md R211). -/
  | cmdFinal
  /-- CMD.HASH: WR4 CMD, 3 (47_oneshot_pair.md R232). -/
  | cmdHash
  /-- CMD.PAIR: WR4 CMD, 4 (47_oneshot_pair.md R236). -/
  | cmdPair
  /-- CMD.NAME: WR4 CMD, 5 (48_selftest.md R253). -/
  | cmdName
  /-- PUSH1 b0: WR1 MSG (46_streaming.md R204). -/
  | push1 (b0 : Byte)
  /-- PUSH2 b0 b1: WR2 MSG, `b0` pushed first (20_memory.md R66). -/
  | push2 (b0 b1 : Byte)
  /-- PUSH4 b0 b1 b2 b3: WR4 MSG, `b0` pushed first (20_memory.md R66). -/
  | push4 (b0 b1 b2 b3 : Byte)
  /-- SETARG.LO v: WR4 ARG_LO, v (10_state.md R26). -/
  | setargLo (v : Word)
  /-- SETARG.HI v: WR4 ARG_HI, v (10_state.md R26). -/
  | setargHi (v : Word)
deriving DecidableEq, Repr

end Sys2Proof
end

