-- ==== Sys2Proof/WellFormed.lean ====
section
/-! DEFINITION. Which instructions the decoder can give (30_encoding.md R88): a base row never stands for the word of a
refinement row, because "a decoder tries refinement rows before base rows". -/

namespace Sys2Proof

/-- The offset of the `CMD` port (20_memory.md R51). -/
def offCmd : Offset := 0x0004
/-- The offset of the `MSG` port (20_memory.md R51). -/
def offMsg : Offset := 0x0010
/-- The offset of `ARG_LO` (20_memory.md R51). -/
def offArgLo : Offset := 0x0018
/-- The offset of `ARG_HI` (20_memory.md R51). -/
def offArgHi : Offset := 0x001C

/-- A four-byte write that is the word of one of the eight WR4 refinement rows of R88: a command word 1 to 5 at `CMD`, or any
data at `MSG`, `ARG_LO` or `ARG_HI`. -/
def refinesWr4 (off : Offset) (v : BitVec 32) : Bool :=
  (off == offCmd && (v == 1 || v == 2 || v == 3 || v == 4 || v == 5)) || off == offMsg || off == offArgLo || off == offArgHi

/-- An instruction is well formed when its word is not the word of a more specific row (R88). Every operand of the other rows
is admitted: their field widths are their types' widths. -/
def Instr.wellFormed : Instr → Bool
  | .rd1 _ => true
  | .rd2 _ => true
  | .rd4 _ => true
  | .wr1 off _ => off != offMsg
  | .wr2 off _ => off != offMsg
  | .wr4 off v => !refinesWr4 off v
  | .rst => true
  | .cmdReset => true
  | .cmdFinal => true
  | .cmdHash => true
  | .cmdPair => true
  | .cmdName => true
  | .push1 _ => true
  | .push2 _ _ => true
  | .push4 _ _ _ _ => true
  | .setargLo _ => true
  | .setargHi _ => true

end Sys2Proof
end

