-- ==== Sys2Proof/Decode.lean ====
section
/-! DEFINITION. The TX word (30_encoding.md R81 to R83, R88): its fields, the total decoder with a name for each way a word can
be malformed, the encoder, and the match and mask of every row. -/

namespace Sys2Proof

/-- Field KIND, bits 63:62 (R81). -/
def txKind (w : TxWord) : BitVec 2 := w.extractLsb' 62 2
/-- Field SZ, bits 61:60 (R81). -/
def txSz (w : TxWord) : BitVec 2 := w.extractLsb' 60 2
/-- Field RSV, bits 59:48 (R81). -/
def txRsv (w : TxWord) : BitVec 12 := w.extractLsb' 48 12
/-- Field OFF, bits 47:32 (R81). -/
def txOff (w : TxWord) : Offset := w.extractLsb' 32 16
/-- Field DATA, bits 31:0 (R81). -/
def txData (w : TxWord) : Word := w.extractLsb' 0 32

/-- The ways a TX word is malformed, one for each clause of R83. They all have the same effect (R83); a word with several
defects gets the first name in the decoder's order (log entry 8). -/
inductive Malformed where
  /-- `KIND = 3`. -/
  | kindReserved
  /-- `KIND` is 0 or 1 and `SZ = 3`. -/
  | sizeReserved
  /-- `KIND` is 0 or 1 and `RSV != 0`. -/
  | rsvNotZero
  /-- `KIND = 0` and `DATA != 0`. -/
  | readWithData
  /-- `KIND = 1` and `DATA[31:8n] != 0`. -/
  | dataTooWide
  /-- `KIND = 2` and any of bits 61:0 is 1. -/
  | rstNotBare
deriving DecidableEq, Repr

/-- A read of `2^SZ` bytes; `sz` is not 3 where this is used (R82). -/
def decodeRead (sz : BitVec 2) (off : Offset) : Instr :=
  if sz = 0 then .rd1 off else if sz = 1 then .rd2 off else .rd4 off

/-- A one-byte write: PUSH1 at `MSG`, else WR1 (R88). -/
def decodeWr1 (off : Offset) (v : BitVec 8) : Instr :=
  if off = offMsg then .push1 v else .wr1 off v

/-- A two-byte write: PUSH2 at `MSG`, else WR2 (R88). -/
def decodeWr2 (off : Offset) (v : BitVec 16) : Instr :=
  if off = offMsg then .push2 (v.extractLsb' 0 8) (v.extractLsb' 8 8) else .wr2 off v

/-- A four-byte write to `CMD`: a command row for the values 1 to 5, else the base row, which R85 step 1 refuses (R88). -/
def decodeCmdWrite (v : BitVec 32) : Instr :=
  if v = 1 then .cmdReset
  else if v = 2 then .cmdFinal
  else if v = 3 then .cmdHash
  else if v = 4 then .cmdPair
  else if v = 5 then .cmdName
  else .wr4 offCmd v

/-- A four-byte write (R88). -/
def decodeWr4 (off : Offset) (v : BitVec 32) : Instr :=
  if off = offCmd then decodeCmdWrite v
  else if off = offMsg then
    .push4 (v.extractLsb' 0 8) (v.extractLsb' 8 8) (v.extractLsb' 16 8) (v.extractLsb' 24 8)
  else if off = offArgLo then .setargLo v
  else if off = offArgHi then .setargHi v
  else .wr4 off v

/-- A write of `2^SZ` bytes: `DATA[31:8n]` must be 0 (R82, R83). -/
def decodeWrite (sz : BitVec 2) (off : Offset) (data : Word) : Except Malformed Instr :=
  if sz = 0 then
    if data.extractLsb' 8 24 = 0 then .ok (decodeWr1 off (data.extractLsb' 0 8)) else .error .dataTooWide
  else if sz = 1 then
    if data.extractLsb' 16 16 = 0 then .ok (decodeWr2 off (data.extractLsb' 0 16)) else .error .dataTooWide
  else .ok (decodeWr4 off data)

/-- The decoder: "every 64-bit value is either one well-formed transaction or malformed" (R83). -/
def decode (w : TxWord) : Except Malformed Instr :=
  if txKind w = 3 then .error .kindReserved
  else if txKind w = 2 then
    if w.extractLsb' 0 62 = 0 then .ok .rst else .error .rstNotBare
  else if txSz w = 3 then .error .sizeReserved
  else if txRsv w ≠ 0 then .error .rsvNotZero
  else if txKind w = 0 then
    if txData w = 0 then .ok (decodeRead (txSz w) (txOff w)) else .error .readWithData
  else decodeWrite (txSz w) (txOff w) (txData w)

/-- The word of a KIND 0 or KIND 1 transaction, field by field, RSV zero (R81). -/
def txWord (kind sz : BitVec 2) (off : Offset) (data : Word) : TxWord :=
  kind ++ sz ++ (0 : BitVec 12) ++ off ++ data

/-- The word of an instruction (R81, R82, R88). -/
def encode : Instr → TxWord
  | .rd1 off => txWord 0 0 off 0
  | .rd2 off => txWord 0 1 off 0
  | .rd4 off => txWord 0 2 off 0
  | .wr1 off v => txWord 1 0 off (v.setWidth 32)
  | .wr2 off v => txWord 1 1 off (v.setWidth 32)
  | .wr4 off v => txWord 1 2 off v
  | .rst => 0x8000000000000000
  | .cmdReset => txWord 1 2 offCmd 1
  | .cmdFinal => txWord 1 2 offCmd 2
  | .cmdHash => txWord 1 2 offCmd 3
  | .cmdPair => txWord 1 2 offCmd 4
  | .cmdName => txWord 1 2 offCmd 5
  | .push1 b0 => txWord 1 0 offMsg (b0.setWidth 32)
  | .push2 b0 b1 => txWord 1 1 offMsg ((b1 ++ b0).setWidth 32)
  | .push4 b0 b1 b2 b3 => txWord 1 2 offMsg (b3 ++ b2 ++ b1 ++ b0)
  | .setargLo v => txWord 1 2 offArgLo v
  | .setargHi v => txWord 1 2 offArgHi v

/-- The bits a row fixes and their values: a word belongs to the row when `word &&& mask = value` (R88). -/
structure RowBits where
  value : TxWord
  mask : TxWord
deriving DecidableEq, Repr

/-- The match and mask columns of R88, row by row. -/
def Instr.row : Instr → RowBits
  | .rd1 _ => ⟨0x0000000000000000, 0xFFFF0000FFFFFFFF⟩
  | .rd2 _ => ⟨0x1000000000000000, 0xFFFF0000FFFFFFFF⟩
  | .rd4 _ => ⟨0x2000000000000000, 0xFFFF0000FFFFFFFF⟩
  | .wr1 _ _ => ⟨0x4000000000000000, 0xFFFF0000FFFFFF00⟩
  | .wr2 _ _ => ⟨0x5000000000000000, 0xFFFF0000FFFF0000⟩
  | .wr4 _ _ => ⟨0x6000000000000000, 0xFFFF000000000000⟩
  | .rst => ⟨0x8000000000000000, 0xFFFFFFFFFFFFFFFF⟩
  | .cmdReset => ⟨0x6000000400000001, 0xFFFFFFFFFFFFFFFF⟩
  | .cmdFinal => ⟨0x6000000400000002, 0xFFFFFFFFFFFFFFFF⟩
  | .cmdHash => ⟨0x6000000400000003, 0xFFFFFFFFFFFFFFFF⟩
  | .cmdPair => ⟨0x6000000400000004, 0xFFFFFFFFFFFFFFFF⟩
  | .cmdName => ⟨0x6000000400000005, 0xFFFFFFFFFFFFFFFF⟩
  | .push1 _ => ⟨0x4000001000000000, 0xFFFFFFFFFFFFFF00⟩
  | .push2 _ _ => ⟨0x5000001000000000, 0xFFFFFFFFFFFF0000⟩
  | .push4 _ _ _ _ => ⟨0x6000001000000000, 0xFFFFFFFF00000000⟩
  | .setargLo _ => ⟨0x6000001800000000, 0xFFFFFFFF00000000⟩
  | .setargHi _ => ⟨0x6000001C00000000, 0xFFFFFFFF00000000⟩

/-- What the decoder reads from an instruction whose table bits are `w`, `nbits` of them; the bits above `nbits` are 0. A TX
word has one length, 64 bits (R81), so a row of more bits is no row of this hardware. -/
def decodeTableWord (nbits w : Nat) : Option Instr :=
  if nbits ≤ 64 then (decode (BitVec.ofNat 64 (w % 2 ^ nbits))).toOption else none

end Sys2Proof
end

