-- ==== Sys2Proof/Config.lean ====
section
/-! DEFINITION. What an implementation fixes (00_scope.md R3, R5, R8) and the one free value of the model. -/

namespace Sys2Proof

/-- The configuration record `Cfg` (R3, R8): every value the source leaves open, "fixed when the core is built and never changed
afterwards". Every shared operation of the model takes it as an argument. The bounds R5 asks for (`NK >= 64`, `FK < NK`,
`FW < 64`, functions that are total and depend on their listed arguments alone) are carried by the types; the last condition of
R5, on the self-test digest, is `Machine.wellFormedCfg`. `ST_MSG` is listed in R8 as "not open": it is the constant
`Machine.stMsg`. -/
structure Cfg where
  /-- `IV[0..7]`, the initial value of the state (40_tables.md R101). -/
  iv : Words8
  /-- `NK`, the number of round constants (40_tables.md R102). -/
  nk : Nat
  /-- `NK >= 64` (R5). -/
  nk_ge : 64 ≤ nk
  /-- `K[0..NK-1]`, the round constants (40_tables.md R102). -/
  k : Vector Word nk
  /-- The source's `s0` (40_tables.md R105). -/
  ssig0 : Word → Word
  /-- The source's `s1` (40_tables.md R105). -/
  ssig1 : Word → Word
  /-- The source's `S0` (40_tables.md R106). -/
  bsig0 : Word → Word
  /-- The source's `S1` (40_tables.md R106). -/
  bsig1 : Word → Word
  /-- `ch` (40_tables.md R107). -/
  ch : Word → Word → Word → Word
  /-- `maj` (40_tables.md R107). -/
  maj : Word → Word → Word → Word
  /-- The cross-register mixing pass (43_compression.md R145). -/
  xmix : Words8 → Words8
  /-- `FK < NK`, the index of the round constant of the 65th step (43_compression.md R149). -/
  fk : Fin nk
  /-- `FW < 64`, the index of the schedule word of the 65th step (43_compression.md R149). -/
  fw : Fin 64
  /-- The activation predicate of the neural stage (44_neural.md R160). -/
  npred : Byte → Count → Bool
  /-- The neural stage, a function of the registers and the round-constant table (44_neural.md R162). -/
  neural : Words8 → Vector Word nk → Words8
  /-- The quantum stage (45_quantum.md R180). -/
  qstage : Words8 → Words5
  /-- `ST_DIGEST`, the expected digest of the self-test message (48_selftest.md R251). -/
  stDigest : Digest
  /-- `IMPL_NAME`, 16 bytes (48_selftest.md R256). -/
  implName : Vector Byte 16
  /-- "`IMPL_NAME[0]` must be non-zero" (48_selftest.md R256). -/
  implName_ne : implName[0] ≠ 0
  /-- `DEV_ID`, the word of the register `ID` (10_state.md R40). -/
  devId : Word

/-- FREE VALUE (log entry 3): the byte that `BUF[i]` holds after the `n`-th hardware reset (10_state.md R41, 70_reset_and_hazards.md
R300: "BUF[0..63] <- unspecified"). It has no body, so nothing can be proved of it. -/
opaque Config.freeByte : Nat → Fin 64 → Byte

end Sys2Proof
end

