-- ==== Sys2Proof/Machine/Bits.lean ====
section
/-! DEFINITION. The notation of 00_scope.md R10 to R12 on words and bytes: rotations, the big-endian serialisations of the hash
(20_memory.md R53) and the little-endian byte order of the bus (R52). -/

namespace Sys2Proof.Machine

/-- `rotr(x, n)`, `1 <= n <= 31` (00_scope.md R11, 40_tables.md R103). -/
def rotr (x : Word) (n : Nat) : Word := (x >>> n) ||| (x <<< (32 - n))

/-- `be32(b0, b1, b2, b3)` (R12). -/
def be32 (b0 b1 b2 b3 : Byte) : Word := b0 ++ b1 ++ b2 ++ b3

/-- `ser32(v)`: the bytes `v[31:24], v[23:16], v[15:8], v[7:0]` (R12). -/
def ser32 (v : Word) : List Byte :=
  [v.extractLsb' 24 8, v.extractLsb' 16 8, v.extractLsb' 8 8, v.extractLsb' 0 8]

/-- `ser64(v)`: the 8 bytes of a 64-bit value, most significant first (R12). -/
def ser64 (v : Count) : List Byte :=
  ser32 (v.extractLsb' 32 32) ++ ser32 (v.extractLsb' 0 32)

/-- `H[i]`, `r[i]`: element `i` of a group of eight words (R12). -/
def word8 (r : Words8) (i : Fin 8) : Word :=
  match i with
  | 0 => r.x0
  | 1 => r.x1
  | 2 => r.x2
  | 3 => r.x3
  | 4 => r.x4
  | 5 => r.x5
  | 6 => r.x6
  | 7 => r.x7

/-- Word-wise addition modulo 2^32 (R11, 43_compression.md R150). -/
def addWords (p q : Words8) : Words8 :=
  ⟨p.x0 + q.x0, p.x1 + q.x1, p.x2 + q.x2, p.x3 + q.x3, p.x4 + q.x4, p.x5 + q.x5, p.x6 + q.x6, p.x7 + q.x7⟩

/-- The bytes `ser32(H[0]) || ser32(H[1]) || ... || ser32(H[7])` (46_streaming.md R209). -/
def serBytes (h : Words8) : List Byte :=
  ser32 h.x0 ++ ser32 h.x1 ++ ser32 h.x2 ++ ser32 h.x3 ++ ser32 h.x4 ++ ser32 h.x5 ++ ser32 h.x6 ++ ser32 h.x7

/-- Digest serialisation: the 8 state words as 32 big-endian bytes (46_streaming.md R209, 20_memory.md R53). -/
def serialize (h : Words8) : Digest := ⟨(serBytes h).toArray, rfl⟩

/-- The number whose bytes, lowest first, are `bs`: `sum over i of byte i * 2^(8i)` (20_memory.md R52, R54). -/
def leNat : List Byte → Nat
  | [] => 0
  | b :: bs => b.toNat + 256 * leNat bs

/-- The value of `bs` on the 32-bit data bus, zero-extended (R54, 30_encoding.md R84). -/
def leWord (bs : List Byte) : Word := BitVec.ofNat 32 (leNat bs)

/-- Byte `i` of an access is bits `[8i+7 : 8i]` of the data value (R52); the bytes of an access of `n` bytes in increasing offset
order (R66). -/
def dataBytes (n : Nat) (v : Word) : List Byte := (List.range n).map fun i => v.extractLsb' (8 * i) 8

end Sys2Proof.Machine
end

