-- ==== Sys2Proof/Machine/Schedule.lean ====
section
/-! DEFINITION. The message-schedule expander (42_schedule.md R130 to R133). -/

namespace Sys2Proof.Machine

/-- `w[i] = be32(B[4i], B[4i+1], B[4i+2], B[4i+3])` for `i < 16` (R131). -/
def blockWord (b : Block) (i : Fin 16) : Word :=
  be32 b[4 * i.val] b[4 * i.val + 1] b[4 * i.val + 2] b[4 * i.val + 3]

/-- The first 16 words of the schedule (R131). -/
def firstWords (b : Block) : List Word := (List.finRange 16).map (blockWord b)

/-- `w[i] = w[i-16] + ssig0(w[i-15]) + w[i-7] + ssig1(w[i-2])`, `i` the number of words there are already (R132). -/
def nextWord (C : Cfg) (w : List Word) : Word :=
  w.getD (w.length - 16) 0 + C.ssig0 (w.getD (w.length - 15) 0) + w.getD (w.length - 7) 0 + C.ssig1 (w.getD (w.length - 2) 0)

/-- `n` further words, in increasing order (R132). -/
def expand (C : Cfg) : Nat → List Word → List Word
  | 0, w => w
  | n + 1, w => expand C n (w ++ [nextWord C w])

@[simp] theorem firstWords_length (b : Block) : (firstWords b).length = 16 := by simp [firstWords]

@[simp] theorem expand_length (C : Cfg) (n : Nat) (w : List Word) : (expand C n w).length = w.length + n := by
  induction n generalizing w with
  | zero => rfl
  | succ n ih => rw [expand, ih, List.length_append, List.length_singleton, Nat.add_right_comm, Nat.add_assoc]

/-- `Schedule(B)`: 64 words, a pure function of the block (R130, R133). -/
def schedule (C : Cfg) (b : Block) : Vector Word 64 :=
  ⟨(expand C 48 (firstWords b)).toArray, by simp⟩

end Sys2Proof.Machine
end

