-- ==== Sys2Proof/Machine/Compress.lean ====
section
/-! DEFINITION. The compression engine as a pure function (43_compression.md R140 to R154). -/

namespace Sys2Proof.Machine

/-- `MixStep(r, k, x, q)` (R143). `q` is 0 in the 64 inner steps and the updated accumulator in the 65th (R149). -/
def mixStep (C : Cfg) (r : Words8) (k x q : Word) : Words8 :=
  let t1 := (r.x7 + C.bsig1 r.x4 + C.ch r.x4 r.x5 r.x6 + k + x) ^^^ q
  let t2 := C.bsig0 r.x0 + C.maj r.x0 r.x1 r.x2
  ⟨t1 + t2, r.x0, r.x1, r.x2, r.x3 + t1, r.x4, r.x5, r.x6⟩

/-- The round constant of inner step `t` (R144): there is one for every `t < 64` because `NK >= 64` (00_scope.md R5). -/
def roundConst (C : Cfg) (t : Fin 64) : Word := C.k[t.val]'(Nat.lt_of_lt_of_le t.isLt C.nk_ge)

/-- The step index `t = 16*o + i` (R144). -/
def stepIndex (o : Fin 4) (i : Fin 16) : Fin 64 := ⟨16 * o.val + i.val, by omega⟩

/-- Inner step `i` of outer round `o` (R144). -/
def innerStep (C : Cfg) (w : Vector Word 64) (o : Fin 4) (r : Words8) (i : Fin 16) : Words8 :=
  mixStep C r (roundConst C (stepIndex o i)) w[(stepIndex o i).val] 0

/-- Outer round `o`: sixteen inner steps, then the cross-register pass (R144, R145). -/
def outerRound (C : Cfg) (w : Vector Word 64) (r : Words8) (o : Fin 4) : Words8 :=
  C.xmix ((List.finRange 16).foldl (innerStep C w o) r)

/-- The four outer rounds (R144, R145). -/
def outerRounds (C : Cfg) (w : Vector Word 64) (r : Words8) : Words8 :=
  (List.finRange 4).foldl (outerRound C w) r

/-- The working registers at the start of the 65th step: after the neural stage if the boolean is set (R147). -/
def afterNeural (C : Cfg) (act : Bool) (r : Words8) : Words8 := if act then C.neural r C.k else r

/-- `Q' = Qin xor v0 xor v1 xor v2 xor v3 xor v4` (R148). -/
def mixAccumulator (q : Word) (v : Words5) : Word := q ^^^ v.v0 ^^^ v.v1 ^^^ v.v2 ^^^ v.v3 ^^^ v.v4

/-- The 65th step, `MixStep(r, K[FK], w[FW], Q')` (R149). -/
def lastStep (C : Cfg) (w : Vector Word 64) (r : Words8) (q : Word) : Words8 := mixStep C r C.k[C.fk] w[C.fw] q

/-- The three results of `Compress` (R154). -/
structure Compressed where
  /-- `Hout`, the updated state. -/
  h : Words8
  /-- `Qout`, the updated accumulator. -/
  q : Word
  /-- `act`, the block-dependent boolean. -/
  act : Bool
deriving DecidableEq, Repr

/-- `Compress(Hin, Qin, B, len) -> (Hout, Qout, act)` (R154), in the order of R140. -/
def compress (C : Cfg) (hin : Words8) (qin : Word) (b : Block) (len : Count) : Compressed :=
  let act := C.npred b[0] len
  let w := schedule C b
  let r := afterNeural C act (outerRounds C w hin)
  let q := mixAccumulator qin (C.qstage r)
  ⟨addWords hin (lastStep C w r q), q, act⟩

end Sys2Proof.Machine
end

