-- ==== Sys2Proof/Machine/Hash.lean ====
section
/-! DEFINITION. The hash as a mathematical function: padding of a whole message (41_padding.md R120, R123), `NLCHash`
(47_oneshot_pair.md R231), the pair transform (R239), and the last condition of a well-formed configuration
(00_scope.md R5). -/

namespace Sys2Proof.Machine

/-- `bitlen(L) = (8 * L) mod 2^64` (41_padding.md R123). -/
def bitlen (l : Nat) : Count := BitVec.ofNat 64 (8 * l)

/-- `z = (55 - L) mod 64`, the number of zero bytes (R120). -/
def zeroCount (l : Nat) : Nat := ((55 - (l : Int)) % 64).toNat

/-- `pad(M) = M || 0x80 || (z bytes 0x00) || ser64(bitlen(L))` (R120). -/
def pad (m : List Byte) : List Byte :=
  m ++ [0x80] ++ List.replicate (zeroCount m.length) 0x00 ++ ser64 (bitlen m.length)

/-- Block `j` of a byte string: the bytes `64j` to `64j + 63` (R120). -/
def blockAt (p : List Byte) (j : Nat) : Block := Vector.ofFn fun i => p.getD (64 * j + i.val) 0

/-- The two values carried from block to block (43_compression.md R151). -/
structure Chain where
  h : Words8
  q : Word
deriving DecidableEq, Repr

/-- One block of a message: `(H, Q, _) = Compress(H, Q, B, len)` (R231). -/
def chainBlock (C : Cfg) (c : Chain) (b : Block) (len : Nat) : Chain :=
  let r := compress C c.h c.q b (BitVec.ofNat 64 len)
  ⟨r.h, r.q⟩

/-- `len_j`: `64 (j + 1)` for a block made of message bytes only, `L` for the blocks the padder completes (R231). -/
def blockLen (l j : Nat) : Nat := if j < l / 64 then 64 * (j + 1) else l

/-- The chain after all blocks of `pad(M)` (R231). -/
def hashChain (C : Cfg) (m : List Byte) : Chain :=
  (List.range ((pad m).length / 64)).foldl
    (fun c j => chainBlock C c (blockAt (pad m) j) (blockLen m.length j)) ⟨C.iv, 0⟩

/-- `NLCHash(M)` (R231). -/
def nlcHash (C : Cfg) (m : List Byte) : Digest := serialize (hashChain C m).h

/-- `PairT(B)` (47_oneshot_pair.md R239). -/
def pairT (C : Cfg) (b : Block) : Digest := serialize (compress C C.iv 0 b 64).h

/-- `ST_MSG`: the 32 ASCII bytes of the self-test message, "not open" (48_selftest.md R250, 00_scope.md R8). -/
def stMsg : List Byte :=
  [0x6e, 0x65, 0x75, 0x72, 0x61, 0x6c, 0x6c, 0x65, 0x61, 0x64, 0x26, 0x73, 0x69, 0x6d, 0x6f, 0x6e,
   0x6a, 0x72, 0x69, 0x64, 0x64, 0x69, 0x78, 0x34, 0x72, 0x65, 0x73, 0x65, 0x61, 0x72, 0x63, 0x68]

/-- A configuration is well formed when the digest of `ST_MSG` computed by R231 under it is its `ST_DIGEST` (00_scope.md R5; the
other conditions of R5 are carried by the types of `Cfg`). -/
abbrev wellFormedCfg (C : Cfg) : Prop := nlcHash C stMsg = C.stDigest

end Sys2Proof.Machine
end

