-- ==== Sys2Proof/Machine/Tables.lean ====
section
/-! DEFINITION. The reference values of the tables, the word functions, the cross-register pass and the predicate
(40_tables.md R101 to R107, 43_compression.md R146, 44_neural.md R161). They are the spec's own REF values, not the repository's
(00_scope.md R8; log entry 1). -/

namespace Sys2Proof.Machine

/-- REF `IV` (R101). -/
def refIv : Words8 :=
  ⟨0x6a09e667, 0xbb67ae85, 0x3c6ef372, 0xa54ff53a, 0x510e527f, 0x9b05688c, 0x1f83d9ab, 0x5be0cd19⟩

/-- The eight rows in which the spec prints REF `K` (R102), each with its leftmost word highest. -/
def refKRows : Vector (BitVec 256) 8 := #v[
  0x428a2f98_71374491_b5c0fbcf_e9b5dba5_3956c25b_59f111f1_923f82a4_ab1c5ed5,
  0xd807aa98_12835b01_243185be_550c7dc3_72be5d74_80deb1fe_9bdc06a7_c19bf174,
  0xe49b69c1_efbe4786_0fc19dc6_240ca1cc_2de92c6f_4a7484aa_5cb0a9dc_76f988da,
  0x983e5152_a831c66d_b00327c8_bf597fc7_c6e00bf3_d5a79147_06ca6351_14292967,
  0x27b70a85_2e1b2138_4d2c6dfc_53380d13_650a7354_766a0abb_81c2c92e_92722c85,
  0xa2bfe8a1_a81a664b_c24b8b70_c76c51a3_d192e819_d6990624_f40e3585_106aa070,
  0x19a4c116_1e376c08_2748774c_34b0bcb5_391c0cb3_4ed8aa4a_5b9cca4f_682e6ff3,
  0x748f82ee_78a5636f_84c87814_8cc70208_90befffa_a4506ceb_bef9a3f7_c67178f2]

/-- The `j`-th word of a row, counted from the left as the spec prints it. -/
def rowWord (row : BitVec 256) (j : Nat) : Word := row.extractLsb' (32 * (7 - j)) 32

/-- REF `K`, 64 words: "row `i` holds `K[8i] .. K[8i+7]`" (R102). -/
def refK : Vector Word 64 := Vector.ofFn fun t : Fin 64 => rowWord refKRows[t.val / 8] (t.val % 8)

/-- REF `ssig0` (R105). -/
def refSsig0 (x : Word) : Word := rotr x 7 ^^^ rotr x 18 ^^^ (x >>> 3)
/-- REF `ssig1` (R105). -/
def refSsig1 (x : Word) : Word := rotr x 17 ^^^ rotr x 19 ^^^ (x >>> 10)
/-- REF `bsig0` (R106). -/
def refBsig0 (x : Word) : Word := rotr x 2 ^^^ rotr x 13 ^^^ rotr x 22
/-- REF `bsig1` (R106). -/
def refBsig1 (x : Word) : Word := rotr x 6 ^^^ rotr x 11 ^^^ rotr x 25
/-- REF `ch` (R107). -/
def refCh (x y z : Word) : Word := (x &&& y) ^^^ (~~~x &&& z)
/-- REF `maj` (R107). -/
def refMaj (x y z : Word) : Word := (x &&& y) ^^^ (x &&& z) ^^^ (y &&& z)

/-- REF `xmix`: four operations in order, each using the results of the ones before it; registers 1, 3, 5, 7 unchanged
(43_compression.md R146). -/
def refXmix (r : Words8) : Words8 :=
  let n0 := r.x0 + (rotr r.x1 7 ^^^ r.x2)
  let n2 := r.x2 + (rotr r.x3 11 ^^^ n0)
  let n4 := r.x4 + (rotr r.x5 13 ^^^ r.x6)
  let n6 := r.x6 + (rotr r.x7 17 ^^^ n4)
  ⟨n0, r.x1, n2, r.x3, n4, r.x5, n6, r.x7⟩

/-- REF `npred`: `(b0 + len) mod 3 = 0`, the sum a natural number (44_neural.md R161). -/
def refNpred (b0 : Byte) (len : Count) : Bool := (b0.toNat + len.toNat) % 3 == 0

end Sys2Proof.Machine
end

