-- ==== Sys2Proof/Machine/Neural.lean ====
section
/-! DEFINITION. The REF neural stage in exact integer arithmetic (44_neural.md R163 to R167). -/

namespace Sys2Proof.Machine

/-- `kw(i) = sext_16(K[i][31:16])`: the upper half of a round constant as a signed 16-bit integer (R164). -/
def kw (K : Vector Word 64) (i : Fin 64) : Int := (K[i].extractLsb' 16 16).toInt

/-- `W1[j][i] = kw(8*j + i)` (R164). -/
def weight1 (K : Vector Word 64) (j : Fin 4) (i : Fin 8) : Int := kw K ⟨8 * j.val + i.val, by omega⟩
/-- `B1[j] = kw(32 + j)` (R164). -/
def bias1 (K : Vector Word 64) (j : Fin 4) : Int := kw K ⟨32 + j.val, by omega⟩
/-- `W2[k][j] = kw(36 + 4*k + j)` (R164). -/
def weight2 (K : Vector Word 64) (k j : Fin 4) : Int := kw K ⟨36 + 4 * k.val + j.val, by omega⟩
/-- `B2[k] = kw(52 + k)` (R164). -/
def bias2 (K : Vector Word 64) (k : Fin 4) : Int := kw K ⟨52 + k.val, by omega⟩
/-- `KX[k] = K[56 + k]`, a whole word (R164). -/
def foldConst (K : Vector Word 64) (k : Fin 4) : Word := K[56 + k.val]

/-- `clamp32(v)`: 0 below 0, `2^32 - 1` above `2^32 - 1`, else `v` (R163). -/
def clamp32 (v : Int) : Int := if v < 0 then 0 else if v > 4294967295 then 4294967295 else v

/-- A sum over the indices below `n`, in exact integers (R165, R166). -/
def sumFin {n : Nat} (f : Fin n → Int) : Int := (List.finRange n).foldl (fun acc i => acc + f i) 0

/-- `pre1[j]`, scale 2^47 (R165). -/
def pre1 (K : Vector Word 64) (r : Words8) (j : Fin 4) : Int :=
  sumFin (fun i => weight1 K j i * ((word8 r i).toNat : Int)) + bias1 K j * 4294967296

/-- `hid[j] = clamp32(floor(pre1[j] / 2^17))` (R165); `/` on integers with a positive divisor is the floor. -/
def hid (K : Vector Word 64) (r : Words8) (j : Fin 4) : Int := clamp32 (pre1 K r j / 131072)

/-- `pre2[k]`, scale 2^47 (R166). -/
def pre2 (K : Vector Word 64) (r : Words8) (k : Fin 4) : Int :=
  sumFin (fun j => weight2 K k j * hid K r j) + bias2 K k * 4294967296

/-- `v[k] = clamp32(floor(pre2[k] / 2^16))` as a word (R166). -/
def neuralOut (K : Vector Word 64) (r : Words8) (k : Fin 4) : Word := BitVec.ofInt 32 (clamp32 (pre2 K r k / 65536))

/-- REF `neural`: the outputs are folded into the even registers, each with a round constant and the word written before it,
starting from `r[7]`; they are computed from the registers as they were (R167). -/
def refNeural (r : Words8) (K : Vector Word 64) : Words8 :=
  let n0 := r.x0 ^^^ neuralOut K r 0 ^^^ foldConst K 0 ^^^ r.x7
  let n2 := r.x2 ^^^ neuralOut K r 1 ^^^ foldConst K 1 ^^^ n0
  let n4 := r.x4 ^^^ neuralOut K r 2 ^^^ foldConst K 2 ^^^ n2
  let n6 := r.x6 ^^^ neuralOut K r 3 ^^^ foldConst K 3 ^^^ n4
  ⟨n0, r.x1, n2, r.x3, n4, r.x5, n6, r.x7⟩

end Sys2Proof.Machine
end

