-- ==== Sys2Proof/Machine/Quantum.lean ====
section
/-! DEFINITION. The REF quantum stage in the integer formulation that 45_quantum.md R186 allows a model to use directly
(R181 to R190). Machine/QuantumExact.lean holds the rational formulation of the same rules. -/

namespace Sys2Proof.Machine

/-- `n[k] = r[k] xor r[k+4]` (R181). -/
def angleWord (r : Words8) (k : Fin 4) : Nat :=
  match k with
  | 0 => (r.x0 ^^^ r.x4).toNat
  | 1 => (r.x1 ^^^ r.x5).toNat
  | 2 => (r.x2 ^^^ r.x6).toNat
  | 3 => (r.x3 ^^^ r.x7).toNat

/-- The parameters `P = 2^64 - n^2`, `Q = 2^33 * n`, `D = 2^64 + n^2` of one rotation (R182). -/
structure RotParam where
  p : Int
  q : Int
  d : Int
deriving DecidableEq, Repr

/-- The parameters of the rotation whose angle word is `n` (R182). -/
def rotParam (n : Nat) : RotParam :=
  ⟨18446744073709551616 - (n : Int) * n, 8589934592 * (n : Int), 18446744073709551616 + (n : Int) * n⟩

/-- The numerators `X + i*Y` of one amplitude (R186). -/
structure GaussInt where
  re : Int
  im : Int
deriving DecidableEq, Repr

/-- The two-qubit register `psi[j] = (X[j] + i*Y[j]) / Den`, index `j = 2*b1 + b0` (R183, R186). -/
structure QReg where
  a0 : GaussInt
  a1 : GaussInt
  a2 : GaussInt
  a3 : GaussInt
  den : Int
deriving DecidableEq, Repr

/-- The register after the two Hadamard gates on |00>: `X = (1,1,1,1)`, `Y = 0`, `Den = 2` (R184, R186). -/
def afterHadamards : QReg := ⟨⟨1, 0⟩, ⟨1, 0⟩, ⟨1, 0⟩, ⟨1, 0⟩, 2⟩

/-- RY on a pair: the new `psi[lo]` numerators (R186). -/
def ryLo (t : RotParam) (lo hi : GaussInt) : GaussInt := ⟨t.p * lo.re - t.q * hi.re, t.p * lo.im - t.q * hi.im⟩
/-- RY on a pair: the new `psi[hi]` numerators (R186). -/
def ryHi (t : RotParam) (lo hi : GaussInt) : GaussInt := ⟨t.q * lo.re + t.p * hi.re, t.q * lo.im + t.p * hi.im⟩
/-- RZ on a pair: the new `psi[lo]` numerators (R186). -/
def rzLo (t : RotParam) (lo : GaussInt) : GaussInt := ⟨t.p * lo.re + t.q * lo.im, t.p * lo.im - t.q * lo.re⟩
/-- RZ on a pair: the new `psi[hi]` numerators (R186). -/
def rzHi (t : RotParam) (hi : GaussInt) : GaussInt := ⟨t.p * hi.re - t.q * hi.im, t.p * hi.im + t.q * hi.re⟩

/-- RY on qubit 0: the pairs (0, 1) and (2, 3) (R183, R185). -/
def ry0 (t : RotParam) (s : QReg) : QReg :=
  ⟨ryLo t s.a0 s.a1, ryHi t s.a0 s.a1, ryLo t s.a2 s.a3, ryHi t s.a2 s.a3, s.den * t.d⟩
/-- RZ on qubit 0: the pairs (0, 1) and (2, 3) (R183, R185). -/
def rz0 (t : RotParam) (s : QReg) : QReg := ⟨rzLo t s.a0, rzHi t s.a1, rzLo t s.a2, rzHi t s.a3, s.den * t.d⟩
/-- RY on qubit 1: the pairs (0, 2) and (1, 3) (R183, R185). -/
def ry1 (t : RotParam) (s : QReg) : QReg :=
  ⟨ryLo t s.a0 s.a2, ryLo t s.a1 s.a3, ryHi t s.a0 s.a2, ryHi t s.a1 s.a3, s.den * t.d⟩
/-- RZ on qubit 1: the pairs (0, 2) and (1, 3) (R183, R185). -/
def rz1 (t : RotParam) (s : QReg) : QReg := ⟨rzLo t s.a0, rzLo t s.a1, rzHi t s.a2, rzHi t s.a3, s.den * t.d⟩
/-- Controlled-NOT, control qubit 0, target qubit 1: exchanges `psi[1]` and `psi[3]` (R187). -/
def cnot (s : QReg) : QReg := ⟨s.a0, s.a3, s.a2, s.a1, s.den⟩

/-- The register just before the measurement: Hadamards, the four rotations in the order of R185, the CNOT (R184 to R187). -/
def finalReg (r : Words8) : QReg :=
  cnot (rz1 (rotParam (angleWord r 3)) (ry1 (rotParam (angleWord r 2))
    (rz0 (rotParam (angleWord r 1)) (ry0 (rotParam (angleWord r 0)) afterHadamards))))

/-- `psi[j]`'s numerators (R183). -/
def amp (s : QReg) (j : Fin 4) : GaussInt :=
  match j with
  | 0 => s.a0
  | 1 => s.a1
  | 2 => s.a2
  | 3 => s.a3

/-- `X^2 + Y^2`, the numerator of `prob[j]` over `Den^2` (R188). -/
def weight (a : GaussInt) : Int := a.re * a.re + a.im * a.im

/-- "the smallest j in 0..3 with prob[j] = max(...)": the lowest index wins a tie (R188). -/
def firstMax (w : Fin 4 → Int) : Fin 4 :=
  let most := max (max (w 0) (w 1)) (max (w 2) (w 3))
  if w 0 = most then 0
  else if w 1 = most then 1
  else if w 2 = most then 2
  else 3

/-- The measured outcome `m` (R188). -/
def outcome (s : QReg) : Fin 4 := firstMax fun j => weight (amp s j)

/-- The bitwise-opposite outcome `3 - m` (R188). -/
def opposite (m : Fin 4) : Fin 4 := ⟨3 - m.val, by omega⟩

/-- `min(v, 2^32 - 1)` as a word, for a `v` that is not negative (R190). -/
def saturate32 (v : Int) : Word := BitVec.ofInt 32 (min v 4294967295)

/-- `v0 = min(floor(2^32 * (X^2 + Y^2) / Den^2), 2^32 - 1)` (R190). -/
def probWord (s : QReg) (j : Fin 4) : Word := saturate32 (4294967296 * weight (amp s j) / (s.den * s.den))

/-- A component `N / Den` maps to `min(floor(2^31 * (N + Den) / Den), 2^32 - 1)` (R190). -/
def componentWord (s : QReg) (n : Int) : Word := saturate32 (2147483648 * (n + s.den) / s.den)

/-- The measurement and the mapping of its five scalars (R188, R190). -/
def measure (s : QReg) : Words5 :=
  let m := outcome s
  let alpha := amp s m
  let beta := amp s (opposite m)
  ⟨probWord s m, componentWord s alpha.re, componentWord s alpha.im, componentWord s beta.re, componentWord s beta.im⟩

/-- REF `qstage` (R181 to R190). -/
def refQstage (r : Words8) : Words5 := measure (finalReg r)

end Sys2Proof.Machine
end

