-- ==== Sys2Proof/Machine/Reference.lean ====
section
/-! DEFINITION. The reference instantiation REF of `Cfg` (00_scope.md R8) and the configuration that the fixed names `exec`, `step`
and `State.reset` use (log entry 1). -/

namespace Sys2Proof.Machine

/-- `ST_DIGEST` of REF (48_selftest.md R251). -/
def refStDigest : Digest := #v[
  0xd9, 0xba, 0xa0, 0x1b, 0x7c, 0x64, 0x67, 0x20, 0x44, 0x16, 0x6b, 0xe2, 0x3c, 0x1e, 0xb8, 0x30,
  0x3c, 0x29, 0xdf, 0xc9, 0x78, 0xeb, 0xa5, 0x3b, 0xc5, 0x93, 0xd2, 0x9b, 0x3a, 0xc7, 0xfc, 0xd3]

/-- `IMPL_NAME` of REF: `NLC-REF-1` and seven zero bytes (48_selftest.md R256). -/
def refImplName : Vector Byte 16 := #v[
  0x4e, 0x4c, 0x43, 0x2d, 0x52, 0x45, 0x46, 0x2d, 0x31, 0x00, 0x00, 0x00, 0x00, 0x00, 0x00, 0x00]

/-- `DEV_ID` of REF (10_state.md R40). -/
def refDevId : Word := 0x4E4C4301

/-- REF, the spec's own reference instantiation; it is NOT the repository's set of values (00_scope.md R8). -/
def refCfg : Cfg where
  iv := refIv
  nk := 64
  nk_ge := Nat.le_refl 64
  k := refK
  ssig0 := refSsig0
  ssig1 := refSsig1
  bsig0 := refBsig0
  bsig1 := refBsig1
  ch := refCh
  maj := refMaj
  xmix := refXmix
  fk := 0
  fw := 0
  npred := refNpred
  neural := refNeural
  qstage := refQstage
  stDigest := refStDigest
  implName := refImplName
  implName_ne := by decide
  devId := refDevId

/-- The configuration of the machine under the fixed names (log entry 1). The shared operations take any `Cfg`; a claim about
every core is stated over them. -/
def cfg : Cfg := refCfg

end Sys2Proof.Machine
end

