-- ==== Sys2Proof/Machine/State.lean ====
section
/-! DEFINITION. The state of the core (10_state.md), the reasons a step could stop, and the state after reset (R41). -/

namespace Sys2Proof.Machine

/-- The field `PHASE`, the state of the streaming hasher state machine: six values, "the values 5 and 6 never occur"
(10_state.md R30). -/
inductive Phase where
  /-- 0: just constructed or reset. -/
  | fresh
  /-- 1: bytes written. -/
  | accum
  /-- 2: a digest was emitted. -/
  | finalized
  /-- 3: the data phase of HASH. -/
  | oneshot
  /-- 4: the data phase of PAIR. -/
  | pair
  /-- 7: the self-test failed. -/
  | fatal
deriving DecidableEq, Repr

/-- The field `ST`, the self-test record: three values, "3 never occurs" (10_state.md R32). -/
inductive SelfTest where
  /-- 0: no NAME command since the last hardware reset. -/
  | notRun
  /-- 1: the last NAME command reproduced the expected digest. -/
  | pass
  /-- 2: it did not. -/
  | fail
deriving DecidableEq, Repr

/-- The response `(ok, rdata)` of one transaction (30_encoding.md R84). -/
structure Response where
  ok : Bool
  rdata : Word
deriving DecidableEq, Repr

/-- The state of the core, and three fields of the model's own: the host's transactions still to come, the responses given so
far, and the counter that the free bytes of `BUF` are drawn with. -/
structure State where
  /-- `H[0..7]`, the running state (10_state.md R21). -/
  h : Words8
  /-- `QMIX`, the mixing accumulator (R23). -/
  qmix : Word
  /-- `LEN`, the byte counter (R25). -/
  len : Count
  /-- `ARG`, the operand register (R26). -/
  arg : Count
  /-- `REM`, the down-counter (R27). -/
  rem : Count
  /-- `BUF[0..63]`, the block buffer, stale bytes included (R24, R37). -/
  buf : Block
  /-- `BUFCNT`, 0 to 63 between transactions (R24; log entry 7 on the value 64). -/
  bufcnt : Fin 64
  /-- `OUT[0..31]`, the output buffer (R28). -/
  out : Digest
  /-- `PHASE` (R30). -/
  phase : Phase
  /-- `DVALID` (R31). -/
  dvalid : Bool
  /-- `ST` (R32). -/
  st : SelfTest
  /-- `NFIRED` (R33). -/
  nfired : Bool
  /-- `ERR[3:0]`, the sticky error bits SEQ, ILLCMD, BUS, SELFTEST from bit 0 up (R34). -/
  err : BitVec 4
  /-- The MODEL's field: the host's transactions still to be performed, first one first (log entry 4). -/
  inbox : List TxWord
  /-- The MODEL's field: the responses so far, oldest first (30_encoding.md R84; log entry 5). -/
  responses : List Response
  /-- The MODEL's field: how many RST transactions were performed; it indexes the free bytes of `BUF` (log entry 3). -/
  rstCount : Nat
deriving DecidableEq, Repr

/-- Why a step faults: never. Every error the spec describes is a sticky bit and a response, after which the core goes on
(60_exceptions.md R270, R277, R278), so this type has no constructor (log entry 9). -/
inductive Fault where
deriving DecidableEq, Repr

/-- Why a step is refused. -/
inductive Refusal where
  /-- The one reason the host's interface asks for: exec rejects an instruction that has no meaning yet. No arm of this model
  raises it. Safe: the machine stops where the hardware would go on. -/
  | notModelled (mnemonic : String)
deriving DecidableEq, Repr

/-- The state right after a hardware reset of a core built with `C`: the column "after hardware reset" of 10_state.md R41. `BUF`
is unspecified there; its 64 zero bytes are the model's (log entry 2). -/
def State.resetOf (C : Cfg) : State where
  h := C.iv
  qmix := 0
  len := 0
  arg := 0
  rem := 0
  buf := Vector.replicate 64 0
  bufcnt := 0
  out := Vector.replicate 32 0
  phase := .fresh
  dvalid := false
  st := .notRun
  nfired := false
  err := 0
  inbox := []
  responses := []
  rstCount := 0

/-- The machine right after reset (R41), under the configuration of the fixed names. -/
def State.reset : State := State.resetOf cfg

end Sys2Proof.Machine
end

