-- ==== Sys2Proof/Machine/Flags.lean ====
section
/-! DEFINITION. The status fields and how they are packed (10_state.md R30 to R39), and the raising of an error bit: the one
shared operation that every error of 60_exceptions.md R270 goes through. The core has no arithmetic flags (10_state.md R43). -/

namespace Sys2Proof.Machine

/-- The encoding of `PHASE` (R30). -/
def phaseCode : Phase → BitVec 3
  | .fresh => 0
  | .accum => 1
  | .finalized => 2
  | .oneshot => 3
  | .pair => 4
  | .fatal => 7

/-- The encoding of `ST` (R32). -/
def selfTestCode : SelfTest → BitVec 2
  | .notRun => 0
  | .pass => 1
  | .fail => 2

/-- The `STATUS` register: PHASE 2:0, DVALID 3, ST 5:4, zeros 7:6, BUFCNT 13:8, NFIRED 14, zeros 31:15 (R38). -/
def statusWord (s : State) : Word :=
  (0 : BitVec 17) ++ BitVec.ofBool s.nfired ++ BitVec.ofNat 6 s.bufcnt.val ++ (0 : BitVec 2) ++ selfTestCode s.st ++
    BitVec.ofBool s.dvalid ++ phaseCode s.phase

/-- The `ERR` register: the four bits, bits 31:4 zero (R34, R39). -/
def errWord (s : State) : Word := (0 : BitVec 28) ++ s.err

/-- The four error kinds (60_exceptions.md R270 to R274). -/
inductive ErrBit where
  /-- An operation not legal in the current phase (R271). -/
  | seq
  /-- A command word that is none of the five (R272). -/
  | illcmd
  /-- A malformed TX word or a transaction that is not admitted (R273). -/
  | bus
  /-- The self-test digest differs (R274). -/
  | selftest
deriving DecidableEq, Repr

/-- The value of the bit of `ERR` (R271 to R274). -/
def errMask : ErrBit → BitVec 4
  | .seq => 0x1
  | .illcmd => 0x2
  | .bus => 0x4
  | .selftest => 0x8

/-- `raise Err(B)`: "sets the bit of ERR with that name" and nothing else; setting a bit that is 1 changes nothing
(60_exceptions.md R270, R275, R277; 10_state.md R34). The suppression of the operation's other effects is in the operations that call
it. -/
def State.raise (b : ErrBit) (s : State) : State := { s with err := s.err ||| errMask b }

/-- Every transaction yields one response (30_encoding.md R84). -/
def State.respond (ok : Bool) (rdata : Word) (s : State) : State :=
  { s with responses := s.responses ++ [⟨ok, rdata⟩] }

/-- A transaction that is malformed or not admitted: Err(BUS), the error response `(false, 0)`, no other effect (R273,
20_memory.md R55, 30_encoding.md R83). -/
def busError (s : State) : State := (s.raise .bus).respond false 0

end Sys2Proof.Machine
end

