-- ==== Sys2Proof/Machine/Operands.lean ====
section
/-! DEFINITION. The register map (20_memory.md R51), the admission of a transaction (R55) and the value a read returns (R54,
R56). -/

namespace Sys2Proof.Machine

/-- The size of an access (R55 item 1, 30_encoding.md R81 SZ 0 to 2). -/
inductive Size where
  /-- One byte. -/
  | one
  /-- Two bytes. -/
  | two
  /-- Four bytes. -/
  | four
deriving DecidableEq, Repr

/-- `n = 2^SZ` (30_encoding.md R82). -/
def sizeBytes : Size → Nat
  | .one => 1
  | .two => 2
  | .four => 4

/-- The direction of an access. -/
inductive Dir where
  /-- A read. -/
  | read
  /-- A write. -/
  | write
deriving DecidableEq, Repr

/-- The rows of the register map; `H0` to `H7` are eight registers (R51). -/
inductive Reg where
  /-- 0x00 ID. -/
  | id
  /-- 0x04 CMD. -/
  | cmd
  /-- 0x08 STATUS. -/
  | status
  /-- 0x0C ERR. -/
  | err
  /-- 0x10 MSG. -/
  | msg
  /-- 0x18 ARG_LO. -/
  | argLo
  /-- 0x1C ARG_HI. -/
  | argHi
  /-- 0x20 LEN_LO. -/
  | lenLo
  /-- 0x24 LEN_HI. -/
  | lenHi
  /-- 0x28 REM_LO. -/
  | remLo
  /-- 0x2C REM_HI. -/
  | remHi
  /-- 0x30 QMIX. -/
  | qmix
  /-- 0x40 + 4i, H0 to H7. -/
  | h (i : Fin 8)
  /-- 0x60 to 0x7F OUT. -/
  | out
  /-- 0x80 to 0x8F NAME. -/
  | name
deriving DecidableEq, Repr

/-- Column "offset" of R51: the first offset of the row. -/
def regBase : Reg → Nat
  | .id => 0x00
  | .cmd => 0x04
  | .status => 0x08
  | .err => 0x0C
  | .msg => 0x10
  | .argLo => 0x18
  | .argHi => 0x1C
  | .lenLo => 0x20
  | .lenHi => 0x24
  | .remLo => 0x28
  | .remHi => 0x2C
  | .qmix => 0x30
  | .h i => 0x40 + 4 * i.val
  | .out => 0x60
  | .name => 0x80

/-- How many bytes the row covers. A register covers 4, the windows 32 and 16; MSG covers the bytes of its widest access at 0x10
(R51; log entry 10). -/
def regSpan : Reg → Nat
  | .out => 32
  | .name => 16
  | .id | .cmd | .status | .err | .msg | .argLo | .argHi | .lenLo | .lenHi | .remLo | .remHi | .qmix | .h _ => 4

/-- Column "sizes" of R51. -/
def regSizes : Reg → List Size
  | .msg | .out | .name => [.one, .two, .four]
  | .id | .cmd | .status | .err | .argLo | .argHi | .lenLo | .lenHi | .remLo | .remHi | .qmix | .h _ => [.four]

/-- Column "acc" of R51: a read needs RO or RW, a write needs WO or RW (R55 item 4). -/
def regAllows : Reg → Dir → Bool
  | .cmd, .read | .msg, .read => false
  | .cmd, .write | .msg, .write => true
  | .argLo, _ | .argHi, _ => true
  | .id, .read | .status, .read | .err, .read | .lenLo, .read | .lenHi, .read | .remLo, .read | .remHi, .read
  | .qmix, .read | .h _, .read | .out, .read | .name, .read => true
  | .id, .write | .status, .write | .err, .write | .lenLo, .write | .lenHi, .write | .remLo, .write | .remHi, .write
  | .qmix, .write | .h _, .write | .out, .write | .name, .write => false

/-- All rows of the register map (R51). -/
def allRegs : List Reg :=
  [.id, .cmd, .status, .err, .msg, .argLo, .argHi, .lenLo, .lenHi, .remLo, .remHi, .qmix,
   .h 0, .h 1, .h 2, .h 3, .h 4, .h 5, .h 6, .h 7, .out, .name]

/-- The four conditions of R55 for the row `r`: natural alignment, all bytes in the row, a permitted size (for MSG at offset 0x10
only), a permitted direction. -/
def regAdmits (d : Dir) (n : Size) (off : Nat) (r : Reg) : Bool :=
  off % sizeBytes n == 0 && decide (regBase r ≤ off) && decide (off + sizeBytes n ≤ regBase r + regSpan r) &&
    (regSizes r).contains n && (r != .msg || off == 0x10) && regAllows r d

/-- The register an access reaches, if the transaction is admitted (R55). The offset is not scaled and not sign-extended
(30_encoding.md R82). -/
def admitted (d : Dir) (n : Size) (off : Offset) : Option Reg := allRegs.find? (regAdmits d n off.toNat)

/-- The low word of a 64-bit quantity (R51). -/
def loWord (c : Count) : Word := c.extractLsb' 0 32
/-- The high word of a 64-bit quantity (R51). -/
def hiWord (c : Count) : Word := c.extractLsb' 32 32

/-- Byte `i` of the window `OUT` (R51, 10_state.md R28). -/
def outByte (s : State) (i : Nat) : Byte := if h : i < 32 then s.out[i] else 0

/-- Byte `i` of the window `NAME`: `IMPL_NAME[i]` when `ST = PASS` and 0 otherwise (10_state.md R42). -/
def nameByte (C : Cfg) (s : State) (i : Nat) : Byte :=
  if h : i < 16 then (if s.st = .pass then C.implName[i] else 0) else 0

/-- A read of `n` bytes of a window at byte `i`: `sum over j < n of byte(i + j) * 2^(8j)` (R54). -/
def windowRead (byteAt : Nat → Byte) (i n : Nat) : Word := leWord ((List.range n).map fun j => byteAt (i + j))

/-- The value an admitted read returns (R51, R54, R56). `CMD` and `MSG` are write-only ports that hold no value (10_state.md R44): no
admitted read reaches them. -/
def readValue (C : Cfg) (s : State) (r : Reg) (off n : Nat) : Word :=
  match r with
  | .id => C.devId
  | .cmd => 0
  | .status => statusWord s
  | .err => errWord s
  | .msg => 0
  | .argLo => loWord s.arg
  | .argHi => hiWord s.arg
  | .lenLo => loWord s.len
  | .lenHi => hiWord s.len
  | .remLo => loWord s.rem
  | .remHi => hiWord s.rem
  | .qmix => s.qmix
  | .h i => word8 s.h i
  | .out => windowRead (outByte s) (off - 0x60) n
  | .name => windowRead (nameByte C s) (off - 0x80) n

end Sys2Proof.Machine
end

