-- ==== Sys2Proof/Machine/Ops.lean ====
section
/-! DEFINITION. The procedures of the core as named operations on State, each over an arbitrary configuration: reset(),
CompressBlock, PadFinal, SerOut, Finalize, push, PairBlockDone, the five commands, the hardware reset, and the three kinds of
transaction (46_streaming.md, 41_padding.md, 47_oneshot_pair.md, 48_selftest.md, 20_memory.md, 70_reset_and_hazards.md). -/

namespace Sys2Proof.Machine

/-! ## Reset, compression, padding, serialisation -/

/-- `reset()` (46_streaming.md R203): `ARG`, `OUT`, `ST`, `ERR` and the bytes of `BUF` stay; `PHASE` is the caller's. -/
def softReset (C : Cfg) (s : State) : State :=
  { s with h := C.iv, qmix := 0, len := 0, bufcnt := 0, rem := 0, dvalid := false, nfired := false }

/-- `CompressBlock()` on a full buffer (43_compression.md R140, R152): it writes `H`, `QMIX`, `NFIRED` and `BUFCNT <- 0`. -/
def compressBlock (C : Cfg) (s : State) : State :=
  let r := compress C s.h s.qmix s.buf s.len
  { s with h := r.h, qmix := r.q, nfired := r.act, bufcnt := 0 }

/-- `for i in lo .. hi-1: BUF[i] <- 0x00` (41_padding.md R122). -/
def fillZero (lo hi : Nat) (b : Block) : Block :=
  Vector.ofFn fun i => if lo ≤ i.val ∧ i.val < hi then 0x00 else b[i]

/-- `BUF[56 .. 63] <- ser64(bitlen(L))` (41_padding.md R122). -/
def putLength (l : Nat) (b : Block) : Block :=
  Vector.ofFn fun i => if 56 ≤ i.val then (ser64 (bitlen l)).getD (i.val - 56) 0 else b[i]

/-- `BUF[BUFCNT] <- b`. -/
def storeAt (i : Fin 64) (x : Byte) (b : Block) : Block := b.set i.val x i.isLt

/-- Procedure `PadFinal` (41_padding.md R122). After the marker the fill count is `BUFCNT + 1`, 1 to 64; when it is above 56 "the
length does not fit in this block" and two blocks are compressed. `LEN` keeps the message length during both. -/
def padFinal (C : Cfg) (s : State) : State :=
  let l := s.len.toNat
  let marked := storeAt s.bufcnt 0x80 s.buf
  let cnt := s.bufcnt.val + 1
  if 56 < cnt then
    let t := compressBlock C { s with buf := fillZero cnt 64 marked }
    compressBlock C { t with buf := putLength l (fillZero 0 56 t.buf) }
  else
    compressBlock C { s with buf := putLength l (fillZero cnt 56 marked) }

/-- Procedure `SerOut()` (46_streaming.md R209). -/
def serOut (s : State) : State := { s with out := serialize s.h, dvalid := true }

/-- Procedure `Finalize()` (46_streaming.md R208). -/
def finalize (C : Cfg) (s : State) : State := { serOut (padFinal C s) with phase := .finalized }

/-! ## Pushing message bytes -/

/-- Procedure `PairBlockDone()` (47_oneshot_pair.md R238). -/
def pairBlockDone (C : Cfg) (s : State) : State :=
  { serOut s with
    h := C.iv, qmix := 0, len := 0, rem := s.rem - 1, phase := if s.rem - 1 = 0 then .finalized else s.phase }

/-- The first lines of `push(b)` for a byte that is accepted: `BUF[BUFCNT] <- b`, `LEN <- LEN + 1`, FRESH becomes ACCUM
(46_streaming.md R205). -/
def storeByte (b : Byte) (s : State) : State :=
  { s with buf := storeAt s.bufcnt b s.buf, len := s.len + 1, phase := if s.phase = .fresh then .accum else s.phase }

/-- `if BUFCNT = 64: CompressBlock(); if PHASE = PAIR: PairBlockDone()` (R205): the buffer is full. -/
def blockFull (C : Cfg) (s : State) : State :=
  let t := compressBlock C s
  if t.phase = .pair then pairBlockDone C t else t

/-- `BUFCNT <- BUFCNT + 1` and, when it becomes 64, the compression (R205). The value 64 lives only inside this operation, which
leaves `BUFCNT = 0` (10_state.md R24; log entry 7). -/
def countByte (C : Cfg) (b : Byte) (s : State) : State :=
  let t := storeByte b s
  if s.bufcnt = 63 then blockFull C t else { t with bufcnt := s.bufcnt + 1 }

/-- `if PHASE = ONESHOT: REM <- REM - 1; if REM = 0: Finalize()` (R205). -/
def countDown (C : Cfg) (s : State) : State :=
  if s.phase = .oneshot then
    let t := { s with rem := s.rem - 1 }
    if t.rem = 0 then finalize C t else t
  else s

/-- Procedure `push(b)` (R205): in FINALIZED and FATAL the byte is dropped with Err(SEQ). -/
def pushByte (C : Cfg) (b : Byte) (s : State) : State :=
  match s.phase with
  | .finalized => s.raise .seq
  | .fatal => s.raise .seq
  | .fresh => countDown C (countByte C b s)
  | .accum => countDown C (countByte C b s)
  | .oneshot => countDown C (countByte C b s)
  | .pair => countDown C (countByte C b s)

/-- A `MSG` write pushes its bytes one after the other (R204); "the phase test is made for every byte" (R205). -/
def pushBytes (C : Cfg) (bs : List Byte) (s : State) : State := bs.foldl (fun t b => pushByte C b t) s

/-! ## Commands -/

/-- The five commands (30_encoding.md R86). -/
inductive Command where
  /-- OP 0x01. -/
  | reset
  /-- OP 0x02. -/
  | final
  /-- OP 0x03. -/
  | hash
  /-- OP 0x04. -/
  | pair
  /-- OP 0x05. -/
  | name
deriving DecidableEq, Repr

/-- The command a command word carries: bits 31:8 must be 0 and OP one of the five opcodes (R85, R86, R87). -/
def commandOf (v : Word) : Option Command :=
  if v.extractLsb' 8 24 ≠ 0 then none
  else if v.extractLsb' 0 8 = 0x01 then some .reset
  else if v.extractLsb' 0 8 = 0x02 then some .final
  else if v.extractLsb' 0 8 = 0x03 then some .hash
  else if v.extractLsb' 0 8 = 0x04 then some .pair
  else if v.extractLsb' 0 8 = 0x05 then some .name
  else none

/-- Column "legal in PHASE" of R86. -/
def commandLegal : Command → Phase → Bool
  | .reset, .fresh | .reset, .accum | .reset, .finalized | .reset, .oneshot | .reset, .pair => true
  | .reset, .fatal => false
  | .final, .fresh | .final, .accum => true
  | .final, .finalized | .final, .oneshot | .final, .pair | .final, .fatal => false
  | .hash, .fresh | .hash, .finalized | .pair, .fresh | .pair, .finalized | .name, .fresh | .name, .finalized => true
  | .hash, .accum | .hash, .oneshot | .hash, .pair | .hash, .fatal => false
  | .pair, .accum | .pair, .oneshot | .pair, .pair | .pair, .fatal => false
  | .name, .accum | .name, .oneshot | .name, .pair | .name, .fatal => false

/-- Command RESET (46_streaming.md R210). -/
def resetCommand (C : Cfg) (s : State) : State := { softReset C s with phase := .fresh }

/-- Command FINAL (46_streaming.md R211). -/
def finalCommand (C : Cfg) (s : State) : State := finalize C s

/-- Command HASH (47_oneshot_pair.md R232). -/
def hashCommand (C : Cfg) (s : State) : State :=
  let t := { softReset C s with rem := s.arg }
  if t.rem = 0 then finalize C t else { t with phase := .oneshot }

/-- Command PAIR (47_oneshot_pair.md R236). -/
def pairCommand (C : Cfg) (s : State) : State :=
  let t := { softReset C s with rem := s.arg }
  if t.rem = 0 then { t with phase := .finalized } else { t with phase := .pair }

/-- The self-test run of NAME: `reset(); PHASE <- FRESH`, the 32 pushes of `ST_MSG`, `Finalize()` (48_selftest.md R253). -/
def selfTestRun (C : Cfg) (s : State) : State :=
  finalize C (pushBytes C stMsg { softReset C s with phase := .fresh })

/-- Command NAME (48_selftest.md R253): the digest in `OUT` decides between PASS and FATAL. -/
def nameCommand (C : Cfg) (s : State) : State :=
  let t := selfTestRun C s
  if t.out = C.stDigest then { softReset C { t with st := .pass } with phase := .fresh }
  else { softReset C (State.raise .selftest { t with st := .fail }) with phase := .fatal }

/-- What a command does in a phase in which it is legal (R86). -/
def commandEffect (C : Cfg) : Command → State → State
  | .reset, s => resetCommand C s
  | .final, s => finalCommand C s
  | .hash, s => hashCommand C s
  | .pair, s => pairCommand C s
  | .name, s => nameCommand C s

/-- Steps (2) and (3) of R85: Err(SEQ) and no other effect where the command is not legal, else the command's rule. -/
def runCommand (C : Cfg) (c : Command) (s : State) : State :=
  if commandLegal c s.phase then commandEffect C c s else s.raise .seq

/-- A 4-byte write to `CMD` (30_encoding.md R85): step (1) raises Err(ILLCMD) for a word that is no command. -/
def writeCommand (C : Cfg) (v : Word) (s : State) : State :=
  match commandOf v with
  | none => s.raise .illcmd
  | some c => runCommand C c s

/-! ## The operand register -/

/-- `ARG[31:0] <- v` (20_memory.md R57, 10_state.md R26). -/
def setArgLo (v : Word) (s : State) : State := { s with arg := hiWord s.arg ++ v }

/-- `ARG[63:32] <- v` (20_memory.md R57, 10_state.md R26). -/
def setArgHi (v : Word) (s : State) : State := { s with arg := v ++ loWord s.arg }

/-! ## Transactions -/

/-- `MemRead(off, n)` as a transaction (20_memory.md R55, R56): the value with an OK response, or Err(BUS). No admitted read changes
the core's state. -/
def busRead (C : Cfg) (n : Size) (off : Offset) (s : State) : State :=
  match admitted .read n off with
  | none => busError s
  | some r => s.respond true (readValue C s r off.toNat (sizeBytes n))

/-- `MemWrite(off, n, v)` as a transaction (20_memory.md R55, R57). Only `ARG_LO`, `ARG_HI`, `CMD` and `MSG` are writable; no
admitted write reaches another row (R51). The response of a refused command or push is OK. -/
def busWrite (C : Cfg) (n : Size) (off : Offset) (v : Word) (s : State) : State :=
  match admitted .write n off with
  | some .argLo => (setArgLo v s).respond true 0
  | some .argHi => (setArgHi v s).respond true 0
  | some .cmd => (writeCommand C v s).respond true 0
  | some .msg => (pushBytes C (dataBytes (sizeBytes n) v) s).respond true 0
  | some .id | some .status | some .err | some .lenLo | some .lenHi | some .remLo | some .remHi | some .qmix
  | some (.h _) | some .out | some .name | none => busError s

/-- The unspecified bytes of `BUF` after the `n`-th hardware reset: FREE bytes (10_state.md R41; log entry 3). -/
def freeBlock (n : Nat) : Block := Vector.ofFn (Config.freeByte n)

/-- The hardware reset event (70_reset_and_hazards.md R300): every piece of state takes its reset value, `BUF` free bytes. What the
host has still to send and what it has seen are the host's and stay. -/
def hardReset (C : Cfg) (s : State) : State :=
  { State.resetOf C with
    buf := freeBlock s.rstCount, inbox := s.inbox, responses := s.responses, rstCount := s.rstCount + 1 }

/-- The transaction RST: the reset, response `(true, 0)` (R300, 30_encoding.md R84). -/
def rstTransaction (C : Cfg) (s : State) : State := (hardReset C s).respond true 0

/-- The three kinds of transaction (30_encoding.md R80), the operands assembled by R82. -/
inductive Txn where
  /-- RD: a read of `n` bytes. -/
  | read (n : Size) (off : Offset)
  /-- WR: a write of `n` bytes, the data zero-extended. -/
  | write (n : Size) (off : Offset) (v : Word)
  /-- RST: the hardware reset event. -/
  | rst
deriving DecidableEq, Repr

/-- One transaction, performed whole, under the configuration `C` (00_scope.md R6). -/
def perform (C : Cfg) (t : Txn) (s : State) : State :=
  match t with
  | .read n off => busRead C n off s
  | .write n off v => busWrite C n off v s
  | .rst => rstTransaction C s

/-- The transaction an instruction is: a refinement row is its base row at its offset (30_encoding.md R88). -/
def txnOf : Instr → Txn
  | .rd1 off => .read .one off
  | .rd2 off => .read .two off
  | .rd4 off => .read .four off
  | .wr1 off v => .write .one off (v.setWidth 32)
  | .wr2 off v => .write .two off (v.setWidth 32)
  | .wr4 off v => .write .four off v
  | .rst => .rst
  | .cmdReset => .write .four offCmd 1
  | .cmdFinal => .write .four offCmd 2
  | .cmdHash => .write .four offCmd 3
  | .cmdPair => .write .four offCmd 4
  | .cmdName => .write .four offCmd 5
  | .push1 b0 => .write .one offMsg (b0.setWidth 32)
  | .push2 b0 b1 => .write .two offMsg ((b1 ++ b0).setWidth 32)
  | .push4 b0 b1 b2 b3 => .write .four offMsg (b3 ++ b2 ++ b1 ++ b0)
  | .setargLo v => .write .four offArgLo v
  | .setargHi v => .write .four offArgHi v

/-- One TX word under the configuration `C`: a malformed word is Err(BUS) with an error response (30_encoding.md R83). This is the
machine with `Cfg` as an argument (00_scope.md R3). -/
def performWord (C : Cfg) (w : TxWord) (s : State) : State :=
  match decode w with
  | .ok i => perform C (txnOf i) s
  | .error _ => busError s

end Sys2Proof.Machine
end

