-- ==== Sys2Proof/Machine/Arg.lean ====
section
/-! DEFINITION. The rows SETARG.LO and SETARG.HI (10_state.md R26, 20_memory.md R57): `ARG` is "readable and writable in every
phase". -/

namespace Sys2Proof.Machine

/-- SETARG.LO v: `ARG[31:0] <- v` (R26, R57). -/
def execSetargLo (v : Word) (s : State) : Host.Outcome State Fault Refusal := .next ((setArgLo v s).respond true 0)

/-- SETARG.HI v: `ARG[63:32] <- v` (R26, R57). -/
def execSetargHi (v : Word) (s : State) : Host.Outcome State Fault Refusal := .next ((setArgHi v s).respond true 0)

end Sys2Proof.Machine
end

