-- ==== Sys2Proof/Machine/Commands.lean ====
section
/-! DEFINITION. The five command rows (30_encoding.md R85, R86): a command in a phase in which it is not legal does Err(SEQ) and
nothing else; the bus response is OK in every case (20_memory.md R57). -/

namespace Sys2Proof.Machine

/-- CMD.RESET (46_streaming.md R210). -/
def execCmdReset (s : State) : Host.Outcome State Fault Refusal := .next ((runCommand cfg .reset s).respond true 0)

/-- CMD.FINAL (46_streaming.md R211). -/
def execCmdFinal (s : State) : Host.Outcome State Fault Refusal := .next ((runCommand cfg .final s).respond true 0)

/-- CMD.HASH (47_oneshot_pair.md R232). -/
def execCmdHash (s : State) : Host.Outcome State Fault Refusal := .next ((runCommand cfg .hash s).respond true 0)

/-- CMD.PAIR (47_oneshot_pair.md R236). -/
def execCmdPair (s : State) : Host.Outcome State Fault Refusal := .next ((runCommand cfg .pair s).respond true 0)

/-- CMD.NAME (48_selftest.md R253). -/
def execCmdName (s : State) : Host.Outcome State Fault Refusal := .next ((runCommand cfg .name s).respond true 0)

end Sys2Proof.Machine
end

