-- ==== Sys2Proof/Machine/HardReset.lean ====
section
/-! DEFINITION. The row RST (70_reset_and_hazards.md R300). -/

namespace Sys2Proof.Machine

/-- RST: legal in every phase, response `(true, 0)` (R300). -/
def execRst (s : State) : Host.Outcome State Fault Refusal := .next (rstTransaction cfg s)

end Sys2Proof.Machine
end

