-- ==== Sys2Proof/Machine/Push.lean ====
section
/-! DEFINITION. The message rows PUSH1, PUSH2, PUSH4 (46_streaming.md R204, R205, 20_memory.md R66): "an OK response whatever the
pushes do". -/

namespace Sys2Proof.Machine

/-- PUSH1 b0 (R204). -/
def execPush1 (b0 : Byte) (s : State) : Host.Outcome State Fault Refusal :=
  .next ((pushBytes cfg [b0] s).respond true 0)

/-- PUSH2 b0 b1: `b0` first (R204, R66). -/
def execPush2 (b0 b1 : Byte) (s : State) : Host.Outcome State Fault Refusal :=
  .next ((pushBytes cfg [b0, b1] s).respond true 0)

/-- PUSH4 b0 b1 b2 b3: `b0` first (R204, R66). -/
def execPush4 (b0 b1 b2 b3 : Byte) (s : State) : Host.Outcome State Fault Refusal :=
  .next ((pushBytes cfg [b0, b1, b2, b3] s).respond true 0)

end Sys2Proof.Machine
end

