-- ==== Sys2Proof/Machine/Reads.lean ====
section
/-! DEFINITION. The read rows RD1, RD2, RD4 (30_encoding.md R88, 20_memory.md R55, R56). -/

namespace Sys2Proof.Machine

/-- RD1 off (R88, 20_memory.md R56). -/
def execRd1 (off : Offset) (s : State) : Host.Outcome State Fault Refusal := .next (busRead cfg .one off s)

/-- RD2 off (R88, 20_memory.md R56). -/
def execRd2 (off : Offset) (s : State) : Host.Outcome State Fault Refusal := .next (busRead cfg .two off s)

/-- RD4 off (R88, 20_memory.md R56). -/
def execRd4 (off : Offset) (s : State) : Host.Outcome State Fault Refusal := .next (busRead cfg .four off s)

end Sys2Proof.Machine
end

