-- ==== Sys2Proof/Machine/Writes.lean ====
section
/-! DEFINITION. The base write rows WR1, WR2, WR4 (30_encoding.md R82, R88, 20_memory.md R55, R57). -/

namespace Sys2Proof.Machine

/-- WR1 off, v (R88, 20_memory.md R57); the data is zero-extended (30_encoding.md R82). -/
def execWr1 (off : Offset) (v : BitVec 8) (s : State) : Host.Outcome State Fault Refusal :=
  .next (busWrite cfg .one off (v.setWidth 32) s)

/-- WR2 off, v (R88, 20_memory.md R57); the data is zero-extended (30_encoding.md R82). -/
def execWr2 (off : Offset) (v : BitVec 16) (s : State) : Host.Outcome State Fault Refusal :=
  .next (busWrite cfg .two off (v.setWidth 32) s)

/-- WR4 off, v (R88, 20_memory.md R57). -/
def execWr4 (off : Offset) (v : BitVec 32) (s : State) : Host.Outcome State Fault Refusal :=
  .next (busWrite cfg .four off v s)

end Sys2Proof.Machine
end

