-- ==== Sys2Proof/Machine/Dispatch.lean ====
section
/-! DEFINITION. One arm per row of spec/opcode_table.json, each one call of its meaning. -/

namespace Sys2Proof.Machine

def exec (i : Instr) (s : State) : Host.Outcome State Fault Refusal :=
  match i with
  | .rd1 off => Sys2Proof.Machine.execRd1 off s
  | .rd2 off => Sys2Proof.Machine.execRd2 off s
  | .rd4 off => Sys2Proof.Machine.execRd4 off s
  | .wr1 off v => Sys2Proof.Machine.execWr1 off v s
  | .wr2 off v => Sys2Proof.Machine.execWr2 off v s
  | .wr4 off v => Sys2Proof.Machine.execWr4 off v s
  | .rst => Sys2Proof.Machine.execRst s
  | .cmdReset => Sys2Proof.Machine.execCmdReset s
  | .cmdFinal => Sys2Proof.Machine.execCmdFinal s
  | .cmdHash => Sys2Proof.Machine.execCmdHash s
  | .cmdPair => Sys2Proof.Machine.execCmdPair s
  | .cmdName => Sys2Proof.Machine.execCmdName s
  | .push1 b0 => Sys2Proof.Machine.execPush1 b0 s
  | .push2 b0 b1 => Sys2Proof.Machine.execPush2 b0 b1 s
  | .push4 b0 b1 b2 b3 => Sys2Proof.Machine.execPush4 b0 b1 b2 b3 s
  | .setargLo v => Sys2Proof.Machine.execSetargLo v s
  | .setargHi v => Sys2Proof.Machine.execSetargHi v s

end Sys2Proof.Machine
end

