-- ==== Sys2Proof/Machine/Fetch.lean ====
section
/-! DEFINITION. Where the next transaction comes from (log entry 4): the head of the host's list, taken off it; and the placing of
a word there. -/

namespace Sys2Proof.Machine

/-- The state in which the first transaction of `inbox` is performed: the host has sent it, so it is off the list. -/
def taken (rest : List TxWord) (s : State) : State := { s with inbox := rest }

/-- The TX word whose table bits are `w`, `nbits` of them; the bits above `nbits` are 0 (30_encoding.md R81: 64 bits). -/
def tableWord (nbits w : Nat) : TxWord := BitVec.ofNat 64 (w % 2 ^ nbits)

/-- A TX word put before the host's other transactions. -/
def placeFirst (w : TxWord) (s : State) : State := { s with inbox := w :: s.inbox }

end Sys2Proof.Machine
end

