-- ==== Sys2Proof/Machine/Step.lean ====
section
/-! DEFINITION. One step: the next transaction of the host, performed whole (00_scope.md R6). -/

namespace Sys2Proof.Machine

/-- One step. With no transaction to perform "the core does nothing ... until the host's next transaction"
(70_reset_and_hazards.md R300). A malformed word is answered by `busError` (30_encoding.md R83); any other word is performed
by `exec` after it has been taken off the host's list (log entry 4). -/
def step (s : State) : Host.Outcome State Fault Refusal :=
  match s.inbox with
  | [] => .next s
  | w :: rest =>
    match decode w with
    | .ok i => exec i (taken rest s)
    | .error _ => .next (busError (taken rest s))

/-- `s` with the instruction of the table bits `w` as the host's next transaction. -/
def State.withFetchWord (s : State) (nbits w : Nat) : State := placeFirst (tableWord nbits w) s

end Sys2Proof.Machine
end

