-- ==== Sys2Proof/Machine/Pseudo.lean ====
section
/-! DEFINITION. The pseudo-instructions of the assembler as lists of rows (30_encoding.md R90). The core never sees them: no meaning
uses this file. The command pseudo-instructions are the five command rows. -/

namespace Sys2Proof.Machine

/-- `SETARG v`: the low half, then the high half (R90). -/
def setArgRows (v : Count) : List Instr := [.setargLo (loWord v), .setargHi (hiWord v)]

/-- `PUSH b0 b1 ...`: "greedy from the left", four bytes a write, then two, then one; no byte expands to nothing (R90). -/
def pushRows : List Byte → List Instr
  | b0 :: b1 :: b2 :: b3 :: rest => .push4 b0 b1 b2 b3 :: pushRows rest
  | [b0, b1, b2] => [.push2 b0 b1, .push1 b2]
  | [b0, b1] => [.push2 b0 b1]
  | [b0] => [.push1 b0]
  | [] => []

/-- `GETOUT`: eight four-byte reads of the window `OUT` (R90). -/
def getOutRows : List Instr := (List.range 8).map fun k => .rd4 (BitVec.ofNat 16 (0x60 + 4 * k))

/-- `GETNAME`: four four-byte reads of the window `NAME` (R90). -/
def getNameRows : List Instr := (List.range 4).map fun k => .rd4 (BitVec.ofNat 16 (0x80 + 4 * k))

end Sys2Proof.Machine
end

