-- ==== Sys2Proof/Machine/QuantumExact.lean ====
section
/-! DEFINITION. The REF quantum stage in Gaussian rationals, rule by rule as 45_quantum.md R181 to R190 write it. No meaning
uses this file: it is the clear formulation that the integer one of Machine/Quantum.lean is to be equal to (R186 "an equivalent
integer formulation"). -/

namespace Sys2Proof.Machine

/-- A complex amplitude with rational parts (R186). -/
structure GaussRat where
  re : ℚ
  im : ℚ
deriving DecidableEq, Repr

/-- Product of complex numbers. -/
def gMul (a b : GaussRat) : GaussRat := ⟨a.re * b.re - a.im * b.im, a.re * b.im + a.im * b.re⟩
/-- Sum of complex numbers. -/
def gAdd (a b : GaussRat) : GaussRat := ⟨a.re + b.re, a.im + b.im⟩

/-- A single-qubit gate `[[g00, g01], [g10, g11]]` (R183). -/
structure Gate where
  g00 : GaussRat
  g01 : GaussRat
  g10 : GaussRat
  g11 : GaussRat
deriving DecidableEq, Repr

/-- The four amplitudes, index `j = 2*b1 + b0` (R183). -/
structure Psi where
  p0 : GaussRat
  p1 : GaussRat
  p2 : GaussRat
  p3 : GaussRat
deriving DecidableEq, Repr

/-- The basis state |00>, the fixed initial configuration (R183). -/
def psiStart : Psi := ⟨⟨1, 0⟩, ⟨0, 0⟩, ⟨0, 0⟩, ⟨0, 0⟩⟩

/-- The new `psi[lo]` of a gate (R183). -/
def gateLo (g : Gate) (lo hi : GaussRat) : GaussRat := gAdd (gMul g.g00 lo) (gMul g.g01 hi)
/-- The new `psi[hi]` of a gate (R183). -/
def gateHi (g : Gate) (lo hi : GaussRat) : GaussRat := gAdd (gMul g.g10 lo) (gMul g.g11 hi)

/-- A gate on qubit 0: `lo = 2*b1`, `hi = 2*b1 + 1` (R183). -/
def onQubit0 (g : Gate) (s : Psi) : Psi :=
  ⟨gateLo g s.p0 s.p1, gateHi g s.p0 s.p1, gateLo g s.p2 s.p3, gateHi g s.p2 s.p3⟩
/-- A gate on qubit 1: `lo = b0`, `hi = b0 + 2` (R183). -/
def onQubit1 (g : Gate) (s : Psi) : Psi :=
  ⟨gateLo g s.p0 s.p2, gateLo g s.p1 s.p3, gateHi g s.p0 s.p2, gateHi g s.p1 s.p3⟩

/-- `[[1, 1], [1, -1]]`, the Hadamard matrix without its factor `1/sqrt 2` (R184). -/
def hadamardNumerators : Gate := ⟨⟨1, 0⟩, ⟨1, 0⟩, ⟨1, 0⟩, ⟨-1, 0⟩⟩

/-- Multiply every amplitude by a rational. -/
def scale (c : ℚ) (s : Psi) : Psi :=
  ⟨⟨c * s.p0.re, c * s.p0.im⟩, ⟨c * s.p1.re, c * s.p1.im⟩, ⟨c * s.p2.re, c * s.p2.im⟩, ⟨c * s.p3.re, c * s.p3.im⟩⟩

/-- The two Hadamard gates as one step: the two factors `1/sqrt 2` multiply to `1/2`, which is rational (R184). -/
def hadamardPair (s : Psi) : Psi := scale (1 / 2) (onQubit1 hadamardNumerators (onQubit0 hadamardNumerators s))

/-- `u[k] = n[k] / 2^32` (R181). -/
def unitAngle (n : Nat) : ℚ := (n : ℚ) / 4294967296
/-- `c = (1 - u^2) / (1 + u^2)` (R182). -/
def cosOf (u : ℚ) : ℚ := (1 - u * u) / (1 + u * u)
/-- `s = (2 * u) / (1 + u^2)` (R182). -/
def sinOf (u : ℚ) : ℚ := (2 * u) / (1 + u * u)

/-- RY: `[[c, -s], [s, c]]` (R185). -/
def gateRY (u : ℚ) : Gate := ⟨⟨cosOf u, 0⟩, ⟨-sinOf u, 0⟩, ⟨sinOf u, 0⟩, ⟨cosOf u, 0⟩⟩
/-- RZ: `[[c - i*s, 0], [0, c + i*s]]` (R185). -/
def gateRZ (u : ℚ) : Gate := ⟨⟨cosOf u, -sinOf u⟩, ⟨0, 0⟩, ⟨0, 0⟩, ⟨cosOf u, sinOf u⟩⟩

/-- Controlled-NOT, control qubit 0, target qubit 1 (R187). -/
def cnotExact (s : Psi) : Psi := ⟨s.p0, s.p3, s.p2, s.p1⟩

/-- The register just before the measurement (R184, R185, R187). -/
def finalPsi (r : Words8) : Psi :=
  cnotExact (onQubit1 (gateRZ (unitAngle (angleWord r 3))) (onQubit1 (gateRY (unitAngle (angleWord r 2)))
    (onQubit0 (gateRZ (unitAngle (angleWord r 1))) (onQubit0 (gateRY (unitAngle (angleWord r 0))) (hadamardPair psiStart)))))

/-- `psi[j]` (R183). -/
def ampExact (s : Psi) (j : Fin 4) : GaussRat :=
  match j with
  | 0 => s.p0
  | 1 => s.p1
  | 2 => s.p2
  | 3 => s.p3

/-- `prob[j] = |psi[j]|^2` (R188). -/
def probExact (s : Psi) (j : Fin 4) : ℚ := (ampExact s j).re * (ampExact s j).re + (ampExact s j).im * (ampExact s j).im

/-- The largest of the four probabilities (R188). -/
def maxProb (s : Psi) : ℚ := max (max (probExact s 0) (probExact s 1)) (max (probExact s 2) (probExact s 3))

/-- "the smallest j in 0..3 with prob[j] = max(prob[0], prob[1], prob[2], prob[3])" (R188). -/
def outcomeExact (s : Psi) : Fin 4 :=
  if probExact s 0 = maxProb s then 0
  else if probExact s 1 = maxProb s then 1
  else if probExact s 2 = maxProb s then 2
  else 3

/-- `v0 = min(floor(p * 2^32), 2^32 - 1)` (R190). -/
def probWordExact (p : ℚ) : Word := saturate32 ⌊p * 4294967296⌋
/-- `min(floor((x + 1) * 2^31), 2^32 - 1)` (R190). -/
def componentWordExact (x : ℚ) : Word := saturate32 ⌊(x + 1) * 2147483648⌋

/-- REF `qstage` in exact rationals (R181 to R190). -/
def qstageExact (r : Words8) : Words5 :=
  let s := finalPsi r
  let m := outcomeExact s
  let alpha := ampExact s m
  let beta := ampExact s (opposite m)
  ⟨probWordExact (probExact s m), componentWordExact alpha.re, componentWordExact alpha.im,
    componentWordExact beta.re, componentWordExact beta.im⟩

end Sys2Proof.Machine
end

