-- ==== Sys2Proof/Safety.lean ====
section
/-! DEFINITION. What a run of the core keeps (10_state.md R36) and what a host may trust (70_reset_and_hazards.md R313, R316,
47_oneshot_pair.md R234), in the terms the statements use. -/

namespace Sys2Proof.Machine

/-- The invariants between transactions of 10_state.md R36, over any configuration. `0 <= BUFCNT <= 63` is the type of `bufcnt`;
`BUFCNT = LEN mod 64` holds for a wrapped `LEN` too, since 64 divides 2^64. -/
structure Inv (C : Cfg) (s : State) : Prop where
  /-- "PHASE = FRESH implies LEN = 0, BUFCNT = 0, QMIX = 0, H = Cfg.IV, REM = 0, DVALID = 0." -/
  fresh : s.phase = .fresh → s.len = 0 ∧ s.bufcnt = 0 ∧ s.qmix = 0 ∧ s.h = C.iv ∧ s.rem = 0 ∧ s.dvalid = false
  /-- "PHASE in {ACCUM, ONESHOT} implies BUFCNT = LEN mod 64." -/
  count : s.phase = .accum ∨ s.phase = .oneshot → s.bufcnt.val = s.len.toNat % 64
  /-- "PHASE = ONESHOT implies REM >= 1." -/
  oneshot : s.phase = .oneshot → s.rem ≠ 0
  /-- "PHASE = PAIR implies REM >= 1, BUFCNT = LEN, H = Cfg.IV and QMIX = 0." -/
  pair : s.phase = .pair → s.rem ≠ 0 ∧ s.len.toNat = s.bufcnt.val ∧ s.h = C.iv ∧ s.qmix = 0
  /-- "PHASE in {FINALIZED, FATAL} implies BUFCNT = 0." -/
  done : s.phase = .finalized ∨ s.phase = .fatal → s.bufcnt = 0
  /-- "PHASE not in {ONESHOT, PAIR} implies REM = 0." -/
  rem : s.phase ≠ .oneshot → s.phase ≠ .pair → s.rem = 0
  /-- "PHASE = FATAL if and only if ST = FAIL." -/
  fatal_st : s.phase = .fatal ↔ s.st = .fail
  /-- "PHASE = FATAL if and only if ERR[3] = 1." -/
  fatal_err : s.phase = .fatal ↔ s.err.getLsbD 3 = true

/-- `OUT` holds the digest of a completed message: "with ERR unchanged, PHASE = FINALIZED and DVALID = 1"
(70_reset_and_hazards.md R316, 47_oneshot_pair.md R234). `before` is the state at the start of the operation. -/
def digestReady (before after : State) : Prop :=
  after.phase = .finalized ∧ after.dvalid = true ∧ after.err = before.err

/-- Two states that agree but for the bytes `BUF[BUFCNT .. 63]`, which "influence nothing" (10_state.md R37). -/
def sameUpToStale (s t : State) : Prop :=
  t = { s with buf := t.buf } ∧ ∀ i : Fin 64, i.val < s.bufcnt.val → s.buf[i] = t.buf[i]

/-- The clauses of 30_encoding.md R83, on the bits of the word. -/
def malformedWord (w : TxWord) : Prop :=
  w.extractLsb' 62 2 = 3 ∨
  ((w.extractLsb' 62 2 = 0 ∨ w.extractLsb' 62 2 = 1) ∧ w.extractLsb' 60 2 = 3) ∨
  w.extractLsb' 48 12 ≠ 0 ∨
  (w.extractLsb' 62 2 = 0 ∧ w.extractLsb' 0 32 ≠ 0) ∨
  (w.extractLsb' 62 2 = 1 ∧ w.extractLsb' 60 2 = 0 ∧ w.extractLsb' 8 24 ≠ 0) ∨
  (w.extractLsb' 62 2 = 1 ∧ w.extractLsb' 60 2 = 1 ∧ w.extractLsb' 16 16 ≠ 0) ∨
  (w.extractLsb' 62 2 = 2 ∧ w.extractLsb' 0 62 ≠ 0)

/-- The state after an operation refused with Err(SEQ) and an OK response (60_exceptions.md R270, R271): nothing else changes. -/
def seqRefused (s : State) : State := { s with err := s.err ||| 0x1, responses := s.responses ++ [⟨true, 0⟩] }

/-- The message bytes a transaction pushes, in order (20_memory.md R66); none for the other transactions. -/
def bytesOf : Instr → List Byte
  | .push1 b0 => [b0]
  | .push2 b0 b1 => [b0, b1]
  | .push4 b0 b1 b2 b3 => [b0, b1, b2, b3]
  | .rd1 _ | .rd2 _ | .rd4 _ | .wr1 _ _ | .wr2 _ _ | .wr4 _ _ | .rst | .cmdReset | .cmdFinal | .cmdHash | .cmdPair
  | .cmdName | .setargLo _ | .setargHi _ => []

/-- The three rows that push message bytes (46_streaming.md R204). -/
def isPush : Instr → Bool
  | .push1 _ | .push2 _ _ | .push4 _ _ _ _ => true
  | .rd1 _ | .rd2 _ | .rd4 _ | .wr1 _ _ | .wr2 _ _ | .wr4 _ _ | .rst | .cmdReset | .cmdFinal | .cmdHash | .cmdPair
  | .cmdName | .setargLo _ | .setargHi _ => false

/-- The message that a list of transactions pushes. -/
def messageOf (p : List Instr) : List Byte := p.flatMap bytesOf

/-- A program, one transaction after the other (20_memory.md R60). -/
def runInstrs : List Instr → State → Host.Outcome State Fault Refusal
  | [], s => .next s
  | i :: rest, s =>
    match exec i s with
    | .next t => runInstrs rest t
    | .fault r => .fault r
    | .refused r => .refused r

end Sys2Proof.Machine
end

