-- ==== Sys2Proof/Certificates/Slice0/Obligations.lean ====
section
/-! DEFINITION. The statements for the provers, from the numbered rules of spec/. A statement about `exec`, `step` or
`State.reset` is about the configuration `cfg` (log entry 1), which none of them unfolds but where it says so; a statement with
`C : Cfg` is about every configuration. -/

open Sys2Proof Sys2Proof.Machine

/-! ## Encoding -/

/-- Decoding the word of a well-formed instruction gives the instruction, with every operand (30_encoding.md R81, R82, R88). -/
def Obligations.EncodeThenDecodeIsIdentity : Prop :=
  ∀ i : Instr, i.wellFormed = true → decode (encode i) = .ok i

/-- A word that decodes gives a well-formed instruction whose word it is: no two words stand for one instruction and no refinement
row is given as its base row (30_encoding.md R83, R88). -/
def Obligations.DecodedInstructionReencodesToItsWord : Prop :=
  ∀ (w : TxWord) (i : Instr), decode w = .ok i → i.wellFormed = true ∧ encode i = w

/-- Rule R83 of 30_encoding.md: the malformed words are exactly those of its clauses, "every 64-bit value is either one well-formed
transaction or malformed", and a malformed word does Err(BUS), an error response with read data 0 and nothing else; in particular a
malformed RST does not reset. -/
def Obligations.MalformedWordsAreRefusedOnTheBus : Prop :=
  (∀ w : TxWord, (∃ i, decode w = .ok i ∧ i.wellFormed = true) ∨ malformedWord w) ∧
  (∀ w : TxWord, malformedWord w → ¬ ∃ i, decode w = .ok i) ∧
  (∀ (s : State) (w : TxWord) (rest : List TxWord), s.inbox = w :: rest → malformedWord w →
    step s = .next { s with inbox := rest, err := s.err ||| 0x4, responses := s.responses ++ [⟨false, 0⟩] })

/-- A decoded word has the bits its row of 30_encoding.md R88 fixes. -/
def Obligations.DecodedWordHasItsRowsFixedBits : Prop :=
  ∀ (w : TxWord) (i : Instr), decode w = .ok i → w &&& i.row.mask = i.row.value

/-- Words written out from the encodings of R81 and R88 (those of 95_test_vectors.md section 11) decode to their instructions. -/
def Obligations.SampleWordsDecodeAsTheTableSays : Prop :=
  decode 0x2000000800000000 = .ok (.rd4 0x0008) ∧
  decode 0x1000008200000000 = .ok (.rd2 0x0082) ∧
  decode 0x0000006300000000 = .ok (.rd1 0x0063) ∧
  decode 0x5000000400000001 = .ok (.wr2 0x0004 1) ∧
  decode 0x6000000400000101 = .ok (.wr4 0x0004 0x101) ∧
  decode 0x8000000000000000 = .ok .rst ∧
  decode 0x6000000400000003 = .ok .cmdHash ∧
  decode 0x6000001064636261 = .ok (.push4 0x61 0x62 0x63 0x64) ∧
  decode 0x6000001c00000001 = .ok (.setargHi 1)

/-- The command words are the five values 1 to 5 and no other (30_encoding.md R85, R86, R87). -/
def Obligations.CommandWordsAreOneToFive : Prop :=
  ∀ v : Word, commandOf v =
    if v = 1 then some .reset else if v = 2 then some .final else if v = 3 then some .hash
    else if v = 4 then some .pair else if v = 5 then some .name else none

/-! ## Steps -/

/-- The step performs the host's next transaction, taken off the host's list; with no transaction the core does nothing (model's
inbox, log entry 4). -/
def Obligations.StepPerformsTheNextTransaction : Prop :=
  (∀ (s : State) (w : TxWord) (rest : List TxWord) (i : Instr), s.inbox = w :: rest → decode w = .ok i →
    step s = exec i { s with inbox := rest }) ∧
  (∀ s : State, s.inbox = [] → step s = .next s)

/-- A word placed by withFetchWord is the next transaction performed (log entry 4). -/
def Obligations.PlacedWordIsPerformedNext : Prop :=
  ∀ (s : State) (w : TxWord) (i : Instr), decode w = .ok i →
    step (s.withFetchWord 64 w.toNat) = exec i s ∧ decodeTableWord 64 w.toNat = some i

/-- A refinement row does what its base row does at its offset (30_encoding.md R88), and the machine under the fixed names is the
machine over a configuration, at `cfg`. -/
def Obligations.RefinementRowsAreTheirBaseRows : Prop :=
  (∀ (i : Instr) (s : State), exec i s = .next (perform cfg (txnOf i) s)) ∧
  (∀ (s : State) (w : TxWord) (rest : List TxWord), s.inbox = w :: rest →
    step s = .next (performWord cfg w { s with inbox := rest }))

/-- No transaction and no word stops the machine (60_exceptions.md R277, R278). -/
def Obligations.EveryStepAnswersANextState : Prop :=
  (∀ (i : Instr) (s : State), ∃ t, exec i s = .next t) ∧ (∀ s : State, ∃ t, step s = .next t)

/-- Every transaction yields one response; its data is 0 unless it is a read that was admitted; and an error response means Err(BUS) and
no other effect (30_encoding.md R84, 20_memory.md R55, 60_exceptions.md R270, R273). -/
def Obligations.EveryTransactionYieldsOneResponse : Prop :=
  ∀ (i : Instr) (s t : State), exec i s = .next t →
    ∃ r : Response, t.responses = s.responses ++ [r] ∧
      ((∀ off, i ≠ .rd1 off ∧ i ≠ .rd2 off ∧ i ≠ .rd4 off) → r.rdata = 0) ∧
      (r.ok = false → r.rdata = 0 ∧ t = { s with err := s.err ||| 0x4, responses := s.responses ++ [⟨false, 0⟩] })

/-! ## Hardware reset -/

/-- State.reset holds the values of the column "after hardware reset" of 10_state.md R41 (`BUF` is unspecified there and not stated
here). -/
def Obligations.ResetStateHasTheSpecValues : Prop :=
  State.reset.h = cfg.iv ∧ State.reset.qmix = 0 ∧ State.reset.len = 0 ∧ State.reset.bufcnt = 0 ∧ State.reset.rem = 0 ∧
  State.reset.arg = 0 ∧ (∀ i : Fin 32, State.reset.out[i] = 0) ∧ State.reset.phase = .fresh ∧ State.reset.dvalid = false ∧
  State.reset.nfired = false ∧ State.reset.st = .notRun ∧ State.reset.err = 0

/-- RST from every state gives every piece of state its reset value and answers `(true, 0)`; what the host has still to send stays
(70_reset_and_hazards.md R300, 10_state.md R41). Nothing is said of the free bytes of `BUF`. -/
def Obligations.RstGivesEveryFieldItsResetValue : Prop :=
  ∀ s : State, ∃ t, exec .rst s = .next t ∧
    t.h = cfg.iv ∧ t.qmix = 0 ∧ t.len = 0 ∧ t.bufcnt = 0 ∧ t.rem = 0 ∧ t.arg = 0 ∧ (∀ i : Fin 32, t.out[i] = 0) ∧
    t.phase = .fresh ∧ t.dvalid = false ∧ t.nfired = false ∧ t.st = .notRun ∧ t.err = 0 ∧
    t.inbox = s.inbox ∧ t.responses = s.responses ++ [⟨true, 0⟩]

/-- No transaction but RST clears a bit of ERR, sets ST back to NOTRUN or leaves FATAL (70_reset_and_hazards.md R300,
10_state.md R34). -/
def Obligations.OnlyRstClearsTheStickyRecords : Prop :=
  ∀ (i : Instr) (s t : State), i ≠ .rst → exec i s = .next t →
    (∀ k, s.err.getLsbD k = true → t.err.getLsbD k = true) ∧ (s.st ≠ .notRun → t.st ≠ .notRun) ∧
    (s.phase = .fatal → t.phase = .fatal)

/-! ## Reads -/

/-- Four-byte reads of the numeric registers return the values of 20_memory.md R51 and change nothing but the list of responses
(R56). -/
def Obligations.ReadsOfTheNumericRegisters : Prop :=
  ∀ s : State,
    exec (.rd4 0x18) s = .next { s with responses := s.responses ++ [⟨true, s.arg.extractLsb' 0 32⟩] } ∧
    exec (.rd4 0x1C) s = .next { s with responses := s.responses ++ [⟨true, s.arg.extractLsb' 32 32⟩] } ∧
    exec (.rd4 0x20) s = .next { s with responses := s.responses ++ [⟨true, s.len.extractLsb' 0 32⟩] } ∧
    exec (.rd4 0x24) s = .next { s with responses := s.responses ++ [⟨true, s.len.extractLsb' 32 32⟩] } ∧
    exec (.rd4 0x28) s = .next { s with responses := s.responses ++ [⟨true, s.rem.extractLsb' 0 32⟩] } ∧
    exec (.rd4 0x2C) s = .next { s with responses := s.responses ++ [⟨true, s.rem.extractLsb' 32 32⟩] } ∧
    exec (.rd4 0x30) s = .next { s with responses := s.responses ++ [⟨true, s.qmix⟩] } ∧
    exec (.rd4 0x40) s = .next { s with responses := s.responses ++ [⟨true, s.h.x0⟩] } ∧
    exec (.rd4 0x44) s = .next { s with responses := s.responses ++ [⟨true, s.h.x1⟩] } ∧
    exec (.rd4 0x48) s = .next { s with responses := s.responses ++ [⟨true, s.h.x2⟩] } ∧
    exec (.rd4 0x4C) s = .next { s with responses := s.responses ++ [⟨true, s.h.x3⟩] } ∧
    exec (.rd4 0x50) s = .next { s with responses := s.responses ++ [⟨true, s.h.x4⟩] } ∧
    exec (.rd4 0x54) s = .next { s with responses := s.responses ++ [⟨true, s.h.x5⟩] } ∧
    exec (.rd4 0x58) s = .next { s with responses := s.responses ++ [⟨true, s.h.x6⟩] } ∧
    exec (.rd4 0x5C) s = .next { s with responses := s.responses ++ [⟨true, s.h.x7⟩] }

/-- The STATUS register (10_state.md R38): its fields at their places, the reserved bits 0, 0 after reset; a four-byte read returns it
and has no side effect; no other access of it is admitted. -/
def Obligations.StatusRegisterPacksItsFields : Prop :=
  (∀ s : State, ∃ v : Word,
    exec (.rd4 0x08) s = .next { s with responses := s.responses ++ [⟨true, v⟩] } ∧
    v.extractLsb' 0 3 = (match s.phase with
      | .fresh => 0 | .accum => 1 | .finalized => 2 | .oneshot => 3 | .pair => 4 | .fatal => 7) ∧
    v.getLsbD 3 = s.dvalid ∧
    v.extractLsb' 4 2 = (match s.st with | .notRun => 0 | .pass => 1 | .fail => 2) ∧
    v.extractLsb' 6 2 = 0 ∧
    (v.extractLsb' 8 6).toNat = s.bufcnt.val ∧
    v.getLsbD 14 = s.nfired ∧
    v.extractLsb' 15 17 = 0) ∧
  exec (.rd4 0x08) State.reset = .next { State.reset with responses := [⟨true, 0⟩] } ∧
  (∀ (s : State) (v1 : BitVec 8) (v2 : BitVec 16) (v4 : BitVec 32) (off : Offset), 0x08 ≤ off → off < 0x0C →
    exec (.rd1 off) s = .next (busError s) ∧ exec (.rd2 off) s = .next (busError s) ∧
    exec (.wr1 off v1) s = .next (busError s) ∧ exec (.wr2 off v2) s = .next (busError s) ∧
    exec (.wr4 off v4) s = .next (busError s))

/-- The ERR register (10_state.md R39): bits 3:0 are the four bits, bits 31:4 read 0; a read has no side effect; no other access of it
is admitted. -/
def Obligations.ErrRegisterShowsTheStickyBits : Prop :=
  (∀ s : State, ∃ v : Word,
    exec (.rd4 0x0C) s = .next { s with responses := s.responses ++ [⟨true, v⟩] } ∧
    v.extractLsb' 0 4 = s.err ∧ v.extractLsb' 4 28 = 0) ∧
  (∀ (s : State) (v1 : BitVec 8) (v2 : BitVec 16) (v4 : BitVec 32) (off : Offset), 0x0C ≤ off → off < 0x10 →
    exec (.rd1 off) s = .next (busError s) ∧ exec (.rd2 off) s = .next (busError s) ∧
    exec (.wr1 off v1) s = .next (busError s) ∧ exec (.wr2 off v2) s = .next (busError s) ∧
    exec (.wr4 off v4) s = .next (busError s))

/-- The ID register (10_state.md R40): it reads `DEV_ID` in every state, which is 0x4E4C4301 in the reference instantiation, and takes
four-byte reads only. -/
def Obligations.IdRegisterReadsTheDeviceIdentity : Prop :=
  (∀ s : State, exec (.rd4 0x00) s = .next { s with responses := s.responses ++ [⟨true, 0x4E4C4301⟩] }) ∧
  (∀ (C : Cfg) (s : State), perform C (.read .four 0x00) s = { s with responses := s.responses ++ [⟨true, C.devId⟩] }) ∧
  (∀ (s : State) (v1 : BitVec 8) (v2 : BitVec 16) (v4 : BitVec 32) (off : Offset), off < 0x04 →
    exec (.rd1 off) s = .next (busError s) ∧ exec (.rd2 off) s = .next (busError s) ∧
    exec (.wr1 off v1) s = .next (busError s) ∧ exec (.wr2 off v2) s = .next (busError s) ∧
    exec (.wr4 off v4) s = .next (busError s))

/-- The window OUT (20_memory.md R51, R54; 10_state.md R28): byte `i` at offset 0x60 + i, wider reads with the lowest offset in the low
bits, no side effect. -/
def Obligations.OutWindowIsReadBytewise : Prop :=
  ∀ s : State,
    (∀ i : Fin 32, exec (.rd1 (BitVec.ofNat 16 (0x60 + i.val))) s =
      .next { s with responses := s.responses ++ [⟨true, s.out[i].setWidth 32⟩] }) ∧
    (∀ i : Fin 16, exec (.rd2 (BitVec.ofNat 16 (0x60 + 2 * i.val))) s =
      .next { s with responses := s.responses ++ [⟨true, (s.out[2 * i.val + 1] ++ s.out[2 * i.val]).setWidth 32⟩] }) ∧
    (∀ i : Fin 8, exec (.rd4 (BitVec.ofNat 16 (0x60 + 4 * i.val))) s =
      .next { s with responses := s.responses ++
        [⟨true, s.out[4 * i.val + 3] ++ s.out[4 * i.val + 2] ++ s.out[4 * i.val + 1] ++ s.out[4 * i.val]⟩] })

/-- The window NAME (10_state.md R42): byte `i` reads `IMPL_NAME[i]` when `ST = PASS` and 0 otherwise, in reads of 1, 2 and 4 bytes without
side effect; it is read-only. -/
def Obligations.NameWindowIsGatedBySelfTest : Prop :=
  (∀ (C : Cfg) (s : State) (nameAt : Fin 16 → Byte),
    (∀ i, nameAt i = if s.st = .pass then C.implName[i] else 0) →
    (∀ i : Fin 16, perform C (.read .one (BitVec.ofNat 16 (0x80 + i.val))) s =
      { s with responses := s.responses ++ [⟨true, (nameAt i).setWidth 32⟩] }) ∧
    (∀ i : Fin 8, perform C (.read .two (BitVec.ofNat 16 (0x80 + 2 * i.val))) s =
      { s with responses := s.responses ++
        [⟨true, (nameAt ⟨2 * i.val + 1, by omega⟩ ++ nameAt ⟨2 * i.val, by omega⟩).setWidth 32⟩] }) ∧
    (∀ i : Fin 4, perform C (.read .four (BitVec.ofNat 16 (0x80 + 4 * i.val))) s =
      { s with responses := s.responses ++
        [⟨true, nameAt ⟨4 * i.val + 3, by omega⟩ ++ nameAt ⟨4 * i.val + 2, by omega⟩ ++
          nameAt ⟨4 * i.val + 1, by omega⟩ ++ nameAt ⟨4 * i.val, by omega⟩⟩] })) ∧
  (∀ (C : Cfg) (n : Size) (off : Offset) (v : Word) (s : State), 0x80 ≤ off → off < 0x90 →
    perform C (.write n off v) s = busError s)

/-- The admitted accesses are those of the register map 20_memory.md R51 under R55, and every other one does Err(BUS) with an error
response and nothing else (R55, 60_exceptions.md R273). An admitted read answers OK and changes nothing else; an admitted write
answers OK with data 0. -/
def Obligations.AdmissionFollowsTheRegisterMap : Prop :=
  ∀ (s : State) (off : Offset) (v1 : BitVec 8) (v2 : BitVec 16) (v4 : BitVec 32),
    (if 0x60 ≤ off ∧ off < 0x90 then
      ∃ v, exec (.rd1 off) s = .next { s with responses := s.responses ++ [⟨true, v⟩] }
    else exec (.rd1 off) s = .next (busError s)) ∧
    (if 0x60 ≤ off ∧ off < 0x90 ∧ off.toNat % 2 = 0 then
      ∃ v, exec (.rd2 off) s = .next { s with responses := s.responses ++ [⟨true, v⟩] }
    else exec (.rd2 off) s = .next (busError s)) ∧
    (if off = 0x00 ∨ off = 0x08 ∨ off = 0x0C ∨
        (off.toNat % 4 = 0 ∧ ((0x18 ≤ off ∧ off ≤ 0x30) ∨ (0x40 ≤ off ∧ off < 0x90))) then
      ∃ v, exec (.rd4 off) s = .next { s with responses := s.responses ++ [⟨true, v⟩] }
    else exec (.rd4 off) s = .next (busError s)) ∧
    (if off = 0x10 then ∃ t, exec (.wr1 off v1) s = .next t ∧ t.responses = s.responses ++ [⟨true, 0⟩]
    else exec (.wr1 off v1) s = .next (busError s)) ∧
    (if off = 0x10 then ∃ t, exec (.wr2 off v2) s = .next t ∧ t.responses = s.responses ++ [⟨true, 0⟩]
    else exec (.wr2 off v2) s = .next (busError s)) ∧
    (if off = 0x04 ∨ off = 0x10 ∨ off = 0x18 ∨ off = 0x1C then
      ∃ t, exec (.wr4 off v4) s = .next t ∧ t.responses = s.responses ++ [⟨true, 0⟩]
    else exec (.wr4 off v4) s = .next (busError s))

/-! ## The operand register -/

/-- SETARG.LO and SETARG.HI, and WR4 at the same offsets, write one half of ARG in every phase and change nothing else
(10_state.md R26, 20_memory.md R57). -/
def Obligations.SetArgWritesOneHalfOfArg : Prop :=
  ∀ (s : State) (v : Word),
    (∃ a : Count, a.extractLsb' 0 32 = v ∧ a.extractLsb' 32 32 = s.arg.extractLsb' 32 32 ∧
      exec (.setargLo v) s = .next { s with arg := a, responses := s.responses ++ [⟨true, 0⟩] } ∧
      exec (.wr4 0x18 v) s = .next { s with arg := a, responses := s.responses ++ [⟨true, 0⟩] }) ∧
    (∃ a : Count, a.extractLsb' 0 32 = s.arg.extractLsb' 0 32 ∧ a.extractLsb' 32 32 = v ∧
      exec (.setargHi v) s = .next { s with arg := a, responses := s.responses ++ [⟨true, 0⟩] } ∧
      exec (.wr4 0x1C v) s = .next { s with arg := a, responses := s.responses ++ [⟨true, 0⟩] })

/-! ## Pushing message bytes -/

/-- In FRESH and ACCUM, bytes that do not fill the block are stored from `BUF[BUFCNT]` on, the first byte of the write first; `BUFCNT`
and `LEN` count them and the phase is ACCUM; nothing else changes (46_streaming.md R204, R205; 20_memory.md R66). The base rows
WR1, WR2, WR4 at MSG do the same. -/
def Obligations.PushBelowABlockStoresTheBytes : Prop :=
  ∀ (s : State) (b0 b1 b2 b3 : Byte), (s.phase = .fresh ∨ s.phase = .accum) →
    (s.bufcnt.val < 63 → ∃ t, exec (.push1 b0) s = .next t ∧ exec (.wr1 0x10 b0) s = .next t ∧
      t = { s with
        buf := s.buf.setIfInBounds s.bufcnt.val b0,
        bufcnt := s.bufcnt + 1, len := s.len + 1, phase := .accum, responses := s.responses ++ [⟨true, 0⟩] }) ∧
    (s.bufcnt.val < 62 → ∃ t, exec (.push2 b0 b1) s = .next t ∧ exec (.wr2 0x10 (b1 ++ b0)) s = .next t ∧
      t = { s with
        buf := (s.buf.setIfInBounds s.bufcnt.val b0).setIfInBounds (s.bufcnt.val + 1) b1,
        bufcnt := s.bufcnt + 2, len := s.len + 2, phase := .accum, responses := s.responses ++ [⟨true, 0⟩] }) ∧
    (s.bufcnt.val < 60 → ∃ t, exec (.push4 b0 b1 b2 b3) s = .next t ∧
      exec (.wr4 0x10 (b3 ++ b2 ++ b1 ++ b0)) s = .next t ∧
      t = { s with
        buf := (((s.buf.setIfInBounds s.bufcnt.val b0).setIfInBounds (s.bufcnt.val + 1) b1).setIfInBounds
          (s.bufcnt.val + 2) b2).setIfInBounds (s.bufcnt.val + 3) b3,
        bufcnt := s.bufcnt + 4, len := s.len + 4, phase := .accum, responses := s.responses ++ [⟨true, 0⟩] })

/-- In FRESH and ACCUM the byte that fills the block compresses it, with `LEN` as just incremented: `H`, `QMIX` and `NFIRED` are the
three results of Compress, `BUFCNT` is 0 again, and nothing else changes (46_streaming.md R205, 43_compression.md R140, R152). -/
def Obligations.PushOfThe64thByteCompresses : Prop :=
  ∀ (s : State) (b : Byte), (s.phase = .fresh ∨ s.phase = .accum) → s.bufcnt = 63 →
    let r := compress cfg s.h s.qmix (s.buf.set 63 b) (s.len + 1)
    exec (.push1 b) s = .next { s with
      buf := s.buf.set 63 b, h := r.h, qmix := r.q, nfired := r.act, bufcnt := 0, len := s.len + 1, phase := .accum,
      responses := s.responses ++ [⟨true, 0⟩] }

/-- In ONESHOT a byte that is not the last announced one does what it does in ACCUM and counts `REM` down; the last announced one
does what the push in ACCUM followed by FINAL does (46_streaming.md R205, 47_oneshot_pair.md R232). -/
def Obligations.OneShotPushCountsDownAndFinalizes : Prop :=
  ∀ (s : State) (b : Byte), s.phase = .oneshot →
    (1 < s.rem.toNat → ∃ t, exec (.push1 b) { s with phase := .accum } = .next t ∧
      exec (.push1 b) s = .next { t with phase := .oneshot, rem := s.rem - 1 }) ∧
    (s.rem = 1 → ∃ t u, exec (.push1 b) { s with phase := .accum, rem := 0 } = .next t ∧
      exec .cmdFinal { t with responses := s.responses } = .next u ∧
      exec (.push1 b) s = .next u ∧ u.phase = .finalized ∧ u.rem = 0 ∧ u.dvalid = true)

/-- In PAIR a byte below the block is stored and counted; the 64th byte of an input puts `PairT` of the block into `OUT` and makes the
core ready for the next input (46_streaming.md R205, 47_oneshot_pair.md R238, R239). The premises on the last clause are R36's. -/
def Obligations.PairPushStoresAndEmits : Prop :=
  ∀ (s : State) (b : Byte), s.phase = .pair →
    (s.bufcnt.val < 63 → exec (.push1 b) s = .next { s with
      buf := s.buf.setIfInBounds s.bufcnt.val b, bufcnt := s.bufcnt + 1, len := s.len + 1,
      responses := s.responses ++ [⟨true, 0⟩] }) ∧
    (s.bufcnt = 63 → s.h = cfg.iv → s.qmix = 0 → s.len = 63 → exec (.push1 b) s = .next { s with
      buf := s.buf.set 63 b, out := pairT cfg (s.buf.set 63 b), dvalid := true,
      nfired := cfg.npred (s.buf.set 63 b)[0] 64, bufcnt := 0, len := 0, rem := s.rem - 1,
      phase := if s.rem = 1 then .finalized else .pair, responses := s.responses ++ [⟨true, 0⟩] })

/-- In FINALIZED and FATAL every pushed byte is dropped with Err(SEQ), nothing else changes, and the response is OK
(46_streaming.md R205, R212; 60_exceptions.md R271). -/
def Obligations.PushAfterTheEndIsRefused : Prop :=
  ∀ (s : State) (b0 b1 b2 b3 : Byte), (s.phase = .finalized ∨ s.phase = .fatal) →
    exec (.push1 b0) s = .next (seqRefused s) ∧ exec (.push2 b0 b1) s = .next (seqRefused s) ∧
    exec (.push4 b0 b1 b2 b3) s = .next (seqRefused s)

/-- A wider write pushes its bytes one after the other, low byte first, in every phase (20_memory.md R66, 46_streaming.md R204). -/
def Obligations.WideWritesPushByteByByte : Prop :=
  ∀ (s : State) (b0 b1 b2 b3 : Byte),
    (∃ t u, exec (.push1 b0) s = .next t ∧ exec (.push1 b1) { t with responses := s.responses } = .next u ∧
      exec (.push2 b0 b1) s = .next u) ∧
    (∃ t u, exec (.push2 b0 b1) s = .next t ∧ exec (.push2 b2 b3) { t with responses := s.responses } = .next u ∧
      exec (.push4 b0 b1 b2 b3) s = .next u)

/-! ## Commands -/

/-- A command in a phase in which R86 of 30_encoding.md does not allow it does Err(SEQ) and nothing else, with an OK response
(30_encoding.md R85, 60_exceptions.md R271). -/
def Obligations.CommandsOutOfPhaseAreRefused : Prop :=
  ∀ s : State,
    (s.phase = .fatal → exec .cmdReset s = .next (seqRefused s)) ∧
    (s.phase ≠ .fresh → s.phase ≠ .accum → exec .cmdFinal s = .next (seqRefused s)) ∧
    (s.phase ≠ .fresh → s.phase ≠ .finalized →
      exec .cmdHash s = .next (seqRefused s) ∧ exec .cmdPair s = .next (seqRefused s) ∧
      exec .cmdName s = .next (seqRefused s))

/-- A four-byte write to CMD of a value that is not a command word does Err(ILLCMD) in every phase, FATAL included, and nothing else; the
bus response is OK (60_exceptions.md R272). -/
def Obligations.NonCommandWordsAreIllegal : Prop :=
  ∀ (s : State) (v : Word), v ≠ 1 → v ≠ 2 → v ≠ 3 → v ≠ 4 → v ≠ 5 →
    exec (.wr4 0x04 v) s = .next { s with err := s.err ||| 0x2, responses := s.responses ++ [⟨true, 0⟩] }

/-- Command RESET (46_streaming.md R210): its word; `reset()` (R203) and PHASE FRESH, `ARG`, `OUT`, `ST`, `ERR` and the bytes of `BUF`
unchanged, whatever operation was in progress; in FATAL Err(SEQ) and nothing else. -/
def Obligations.ResetCommandRestoresTheInitialState : Prop :=
  decode 0x6000000400000001 = .ok .cmdReset ∧
  ∀ s : State,
    (s.phase ≠ .fatal → exec .cmdReset s = .next { s with
      h := cfg.iv, qmix := 0, len := 0, bufcnt := 0, rem := 0, dvalid := false, nfired := false, phase := .fresh,
      responses := s.responses ++ [⟨true, 0⟩] }) ∧
    (s.phase = .fatal → exec .cmdReset s = .next (seqRefused s))

/-- Command FINAL in FRESH and ACCUM (46_streaming.md R208, R209, R211; 41_padding.md R122): with at most 55 bytes in the buffer one padded
block is compressed, with 56 or more two, the length counted in `LEN` at the end of the last; `OUT` is the serialisation of the new
`H`. Nothing else changes. -/
def Obligations.FinalCommandPadsAndSerialises : Prop :=
  ∀ s : State, (s.phase = .fresh ∨ s.phase = .accum) →
    (s.bufcnt.val ≤ 55 →
      let b : Block := Vector.ofFn fun j =>
        if j.val < s.bufcnt.val then s.buf[j] else if j.val = s.bufcnt.val then 0x80
        else if j.val < 56 then 0x00 else (ser64 (8 * s.len)).getD (j.val - 56) 0
      let r := compress cfg s.h s.qmix b s.len
      exec .cmdFinal s = .next { s with
        buf := b, h := r.h, qmix := r.q, nfired := r.act, bufcnt := 0, out := serialize r.h, dvalid := true,
        phase := .finalized, responses := s.responses ++ [⟨true, 0⟩] }) ∧
    (56 ≤ s.bufcnt.val →
      let b1 : Block := Vector.ofFn fun j =>
        if j.val < s.bufcnt.val then s.buf[j] else if j.val = s.bufcnt.val then 0x80 else 0x00
      let b2 : Block := Vector.ofFn fun j =>
        if j.val < 56 then 0x00 else (ser64 (8 * s.len)).getD (j.val - 56) 0
      let r1 := compress cfg s.h s.qmix b1 s.len
      let r2 := compress cfg r1.h r1.q b2 s.len
      exec .cmdFinal s = .next { s with
        buf := b2, h := r2.h, qmix := r2.q, nfired := r2.act, bufcnt := 0, out := serialize r2.h, dvalid := true,
        phase := .finalized, responses := s.responses ++ [⟨true, 0⟩] })

/-- Command HASH in FRESH and FINALIZED (47_oneshot_pair.md R232): with a length announced, `reset()`, `REM <- ARG` and PHASE ONESHOT; with
length 0 the digest of the empty message at once. -/
def Obligations.HashCommandStartsOrFinishes : Prop :=
  ∀ s : State, (s.phase = .fresh ∨ s.phase = .finalized) →
    (s.arg ≠ 0 → exec .cmdHash s = .next { s with
      h := cfg.iv, qmix := 0, len := 0, bufcnt := 0, rem := s.arg, dvalid := false, nfired := false, phase := .oneshot,
      responses := s.responses ++ [⟨true, 0⟩] }) ∧
    (s.arg = 0 → ∃ t, exec .cmdHash s = .next t ∧ t.out = nlcHash cfg [] ∧ t.phase = .finalized ∧ t.dvalid = true ∧
      t.len = 0 ∧ t.rem = 0 ∧ t.bufcnt = 0 ∧ t.arg = s.arg ∧ t.st = s.st ∧ t.err = s.err ∧ t.inbox = s.inbox ∧
      t.responses = s.responses ++ [⟨true, 0⟩])

/-- Command PAIR in FRESH and FINALIZED (47_oneshot_pair.md R236): `reset()` and `REM <- ARG`; PHASE PAIR with inputs announced, FINALIZED
with none; `OUT` unchanged and `DVALID` 0 in both. -/
def Obligations.PairCommandStartsOrFinishes : Prop :=
  ∀ s : State, (s.phase = .fresh ∨ s.phase = .finalized) →
    exec .cmdPair s = .next { s with
      h := cfg.iv, qmix := 0, len := 0, bufcnt := 0, rem := s.arg, dvalid := false, nfired := false,
      phase := if s.arg = 0 then .finalized else .pair, responses := s.responses ++ [⟨true, 0⟩] }

/-- Command NAME in FRESH and FINALIZED (48_selftest.md R253, R254, R255), for every configuration: `OUT` holds `NLCHash(ST_MSG)` and the rest
is as after `reset()`; a well-formed configuration (00_scope.md R5) passes and is FRESH again with `ERR` unchanged, any other one goes
to FATAL with ST FAIL and the SELFTEST bit. Under `cfg` it passes: `cfg` is REF, the model's choice of configuration (log entry 1), and the
spec says of REF that it is well formed. -/
def Obligations.NameCommandRunsTheSelfTest : Prop :=
  (∀ (C : Cfg) (s : State), (s.phase = .fresh ∨ s.phase = .finalized) →
    ∃ (b : Block) (p : Phase) (v : SelfTest) (e : BitVec 4),
      runCommand C .name s = { s with
        h := C.iv, qmix := 0, len := 0, bufcnt := 0, rem := 0, dvalid := false, nfired := false,
        out := nlcHash C stMsg, buf := b, phase := p, st := v, err := e } ∧
      (wellFormedCfg C → p = .fresh ∧ v = .pass ∧ e = s.err) ∧
      (¬ wellFormedCfg C → p = .fatal ∧ v = .fail ∧ e = s.err ||| 0x8)) ∧
  (∀ s : State, (s.phase = .fresh ∨ s.phase = .finalized) → ∃ b : Block,
    exec .cmdName s = .next { s with
      h := cfg.iv, qmix := 0, len := 0, bufcnt := 0, rem := 0, dvalid := false, nfired := false,
      out := cfg.stDigest, buf := b, phase := .fresh, st := .pass, responses := s.responses ++ [⟨true, 0⟩] })

/-- "The REF configuration is well formed by construction" (00_scope.md R5). -/
def Obligations.ReferenceConfigurationIsWellFormed : Prop := wellFormedCfg refCfg

/-! ## Whole-machine rules -/

/-- The invariants of 10_state.md R36 hold after reset. -/
def Obligations.ResetStateSatisfiesTheInvariant : Prop := Inv cfg State.reset

/-- The invariants of 10_state.md R36 are kept by every step, and by every TX word under every configuration. -/
def Obligations.EveryStepKeepsTheInvariant : Prop :=
  (∀ s t : State, Inv cfg s → step s = .next t → Inv cfg t) ∧
  (∀ (C : Cfg) (w : TxWord) (s : State), Inv C s → Inv C (performWord C w s))

/-- The phase transition table of 46_streaming.md R215, event by event; "SEQ" leaves the phase and everything else unchanged, and the
events not in the table never change PHASE. -/
def Obligations.PhaseFollowsTheTransitionTable : Prop :=
  ∀ s : State,
    (∀ b, ∃ t, exec (.push1 b) s = .next t ∧ (match s.phase with
      | .fresh | .accum => t.phase = .accum
      | .finalized | .fatal => t = seqRefused s
      | .oneshot => (1 < s.rem.toNat → t.phase = .oneshot) ∧ (s.rem = 1 → t.phase = .finalized)
      | .pair => t.phase = if s.bufcnt = 63 ∧ s.rem = 1 then .finalized else .pair)) ∧
    (∃ t, exec .cmdReset s = .next t ∧ (match s.phase with
      | .fresh | .accum | .finalized | .oneshot | .pair => t.phase = .fresh
      | .fatal => t = seqRefused s)) ∧
    (∃ t, exec .cmdFinal s = .next t ∧ (match s.phase with
      | .fresh | .accum => t.phase = .finalized
      | .finalized | .oneshot | .pair | .fatal => t = seqRefused s)) ∧
    (∃ t, exec .cmdHash s = .next t ∧ (match s.phase with
      | .fresh | .finalized => t.phase = if s.arg = 0 then .finalized else .oneshot
      | .accum | .oneshot | .pair | .fatal => t = seqRefused s)) ∧
    (∃ t, exec .cmdPair s = .next t ∧ (match s.phase with
      | .fresh | .finalized => t.phase = if s.arg = 0 then .finalized else .pair
      | .accum | .oneshot | .pair | .fatal => t = seqRefused s)) ∧
    (∃ t, exec .cmdName s = .next t ∧ (match s.phase with
      | .fresh | .finalized => (t.phase = .fresh ∧ t.st = .pass) ∨ (t.phase = .fatal ∧ t.st = .fail)
      | .accum | .oneshot | .pair | .fatal => t = seqRefused s)) ∧
    (∃ t, exec .rst s = .next t ∧ t.phase = .fresh) ∧
    (∀ off v t, (exec (.rd1 off) s = .next t ∨ exec (.rd2 off) s = .next t ∨ exec (.rd4 off) s = .next t ∨
      exec (.setargLo v) s = .next t ∨ exec (.setargHi v) s = .next t) → t.phase = s.phase) ∧
    (∀ i t, exec i s = .next t → t.responses = s.responses ++ [⟨false, 0⟩] → t.phase = s.phase) ∧
    (∀ v t, commandOf v = none → exec (.wr4 0x04 v) s = .next t → t.phase = s.phase)

/-- In FATAL no transaction but RST changes anything but `ERR`, `ARG` and the list of responses, and the NAME window reads zeros
(48_selftest.md R255). The premise on ST is R36's. -/
def Obligations.FatalIsLeftOnlyByRst : Prop :=
  ∀ (i : Instr) (s : State), s.phase = .fatal → i ≠ .rst → ∃ t, exec i s = .next t ∧
    t = { s with err := t.err, arg := t.arg, responses := t.responses } ∧
    (s.st = .fail → ∀ k : Fin 4, exec (.rd4 (BitVec.ofNat 16 (0x80 + 4 * k.val))) t =
      .next { t with responses := t.responses ++ [⟨true, 0⟩] })

/-- One transaction raises at most one kind of error (60_exceptions.md R276): RST leaves `ERR` zero, and any other transaction leaves it
unchanged or sets one of its bits. -/
def Obligations.OneErrorKindPerTransaction : Prop :=
  ∀ (i : Instr) (s t : State), exec i s = .next t →
    if i = .rst then t.err = 0 else t.err = s.err ∨ ∃ b : ErrBit, t.err = s.err ||| errMask b

/-! ## The hash -/

/-- Streaming gives NLCHash (47_oneshot_pair.md R230): from FRESH, after the bytes of a message have been pushed in order, in any grouping,
and FINAL has been executed, `OUT` is its NLCHash, PHASE FINALIZED, DVALID 1 and LEN its length. The second clause says it of `OUT`
under every configuration. -/
def Obligations.StreamingGivesNlcHash : Prop :=
  (∀ (p : List Instr) (s : State), Inv cfg s → s.phase = .fresh → (∀ i ∈ p, isPush i = true) →
    (messageOf p).length < 2 ^ 64 →
    ∃ t, runInstrs (p ++ [.cmdFinal]) s = .next t ∧ t.out = nlcHash cfg (messageOf p) ∧ t.phase = .finalized ∧
      t.dvalid = true ∧ t.len = BitVec.ofNat 64 (messageOf p).length) ∧
  (∀ (C : Cfg) (m : List Byte) (s : State), Inv C s → s.phase = .fresh → m.length < 2 ^ 64 →
    (runCommand C .final (pushBytes C m s)).out = nlcHash C m)

/-- The one-shot operation gives NLCHash (47_oneshot_pair.md R232, R233): HASH with `ARG` the length of the message, then its bytes in any
grouping. -/
def Obligations.OneShotGivesNlcHash : Prop :=
  ∀ (p : List Instr) (s : State), (s.phase = .fresh ∨ s.phase = .finalized) → (∀ i ∈ p, isPush i = true) →
    s.arg.toNat = (messageOf p).length →
    ∃ t, runInstrs (.cmdHash :: p) s = .next t ∧ t.out = nlcHash cfg (messageOf p) ∧ t.phase = .finalized ∧
      t.dvalid = true ∧ t.rem = 0 ∧ t.len = s.arg ∧ t.err = s.err

/-- The data phase of PAIR (47_oneshot_pair.md R237, R238, R239): 64 bytes of one input, in any grouping, put `PairT` of the input into `OUT`
and leave the core at the start of the next input, or FINALIZED after the last. -/
def Obligations.PairGivesPairTForEachInput : Prop :=
  ∀ (p : List Instr) (s : State), Inv cfg s → s.phase = .pair → s.bufcnt = 0 → (∀ i ∈ p, isPush i = true) →
    (messageOf p).length = 64 →
    ∃ t, runInstrs p s = .next t ∧ t.out = pairT cfg (blockAt (messageOf p) 0) ∧ t.dvalid = true ∧ t.rem = s.rem - 1 ∧
      t.phase = (if s.rem = 1 then .finalized else .pair) ∧ t.h = cfg.iv ∧ t.qmix = 0 ∧ t.len = 0 ∧ t.bufcnt = 0 ∧
      t.err = s.err

/-- Chunk independence (46_streaming.md R217), from every state: two groupings of the same bytes give the same state but for the responses
given. -/
def Obligations.GroupingOfBytesDoesNotMatter : Prop :=
  ∀ (p q : List Instr) (s : State), (∀ i ∈ p, isPush i = true) → (∀ i ∈ q, isPush i = true) → messageOf p = messageOf q →
    ∃ t u, runInstrs p s = .next t ∧ runInstrs q s = .next u ∧ u = { t with responses := u.responses }

/-- The pseudo-instructions (30_encoding.md R90): PUSH expands to pushes of its bytes in order, as few of them as the greedy rule gives;
SETARG sets the whole of `ARG`; GETOUT and GETNAME read the 32 bytes of `OUT` and the 16 of `NAME`, four to a word with the lowest
offset in the low bits, and change nothing else. -/
def Obligations.PseudoInstructionsExpandToRows : Prop :=
  (∀ m : List Byte, (∀ i ∈ pushRows m, isPush i = true) ∧ messageOf (pushRows m) = m ∧
    (pushRows m).length = m.length / 4 + (m.length % 4 + 1) / 2) ∧
  (∀ (s : State) (v : Count), runInstrs (setArgRows v) s =
    .next { s with arg := v, responses := s.responses ++ [⟨true, 0⟩, ⟨true, 0⟩] }) ∧
  (∀ s : State, runInstrs getOutRows s = .next { s with responses := (s.responses ++ List.ofFn (fun k : Fin 8 =>
    (⟨true, s.out[4 * k.val + 3] ++ s.out[4 * k.val + 2] ++ s.out[4 * k.val + 1] ++ s.out[4 * k.val]⟩ : Response))) }) ∧
  (∀ s : State, s.st = .pass → runInstrs getNameRows s = .next { s with responses := (s.responses ++
    List.ofFn (fun k : Fin 4 => (⟨true, cfg.implName[4 * k.val + 3] ++ cfg.implName[4 * k.val + 2] ++
      cfg.implName[4 * k.val + 1] ++ cfg.implName[4 * k.val]⟩ : Response))) }) ∧
  (∀ s : State, s.st ≠ .pass → runInstrs getNameRows s =
    .next { s with responses := s.responses ++ List.replicate 4 ⟨true, 0⟩ })

/-- Reset correctness (46_streaming.md R218): after RESET from any phase but FATAL, any sequence of pushes and FINALs leaves `H`, `QMIX`,
`LEN`, `REM`, `BUFCNT`, `PHASE`, `DVALID` and `NFIRED` as it leaves them on a core just reset by RST, and `OUT` too where there is a
digest. -/
def Obligations.ResetForgetsTheEarlierMessage : Prop :=
  ∀ (p : List Instr) (s : State), s.phase ≠ .fatal → (∀ i ∈ p, isPush i = true ∨ i = .cmdFinal) →
    ∃ t u, runInstrs (.cmdReset :: p) s = .next t ∧ runInstrs (.rst :: p) s = .next u ∧
      t.h = u.h ∧ t.qmix = u.qmix ∧ t.len = u.len ∧ t.rem = u.rem ∧ t.bufcnt = u.bufcnt ∧ t.phase = u.phase ∧
      t.dvalid = u.dvalid ∧ t.nfired = u.nfired ∧ (t.dvalid = true → t.out = u.out)

/-- The bytes `BUF[BUFCNT .. 63]` influence nothing (10_state.md R37): two states that differ in them only stay so, with the same
responses, whatever the transaction. -/
def Obligations.StaleBytesInfluenceNothing : Prop :=
  ∀ (i : Instr) (s t : State), sameUpToStale s t →
    ∃ s' t', exec i s = .next s' ∧ exec i t = .next t' ∧ sameUpToStale s' t'

/-- What a host may trust (47_oneshot_pair.md R234, R235; 70_reset_and_hazards.md R316): after HASH and any pushes, with the SEQ bit clear
before, `PHASE = FINALIZED`, `DVALID = 1` and `ERR` unchanged say exactly that as many bytes were pushed as announced, and then `OUT`
is their digest. -/
def Obligations.DigestReadyMeansDigestOfThePushedBytes : Prop :=
  ∀ (p : List Instr) (s t : State), (s.phase = .fresh ∨ s.phase = .finalized) → s.err.getLsbD 0 = false →
    (∀ i ∈ p, isPush i = true) → runInstrs (.cmdHash :: p) s = .next t →
    (digestReady s t ↔ (messageOf p).length = s.arg.toNat) ∧ (digestReady s t → t.out = nlcHash cfg (messageOf p))

/-- The padding contract (41_padding.md R120, R121, R123): the message, the marker, zeros, the 8-byte big-endian bit length, as few 64-byte
blocks as hold them. -/
def Obligations.PadHasTheContractedShape : Prop :=
  ∀ m : List Byte,
    (pad m).length % 64 = 0 ∧
    (pad m).length / 64 = m.length / 64 + (if m.length % 64 ≤ 55 then 1 else 2) ∧
    (pad m).take m.length = m ∧ (pad m)[m.length]? = some 0x80 ∧
    (∀ i, m.length < i → i < (pad m).length - 8 → (pad m)[i]? = some 0x00) ∧
    (pad m).drop ((pad m).length - 8) = ser64 (BitVec.ofNat 64 (8 * m.length)) ∧
    (pad m).length < m.length + 9 + 64

/-- The pair transform against the streaming path (47_oneshot_pair.md R240), for every configuration: it is the serialisation of the state after
the 64 bytes are streamed; and it is the digest of a message of at most 55 bytes that pads to the block where the predicate gives
the same value for both lengths. -/
def Obligations.PairTransformAgainstStreaming : Prop :=
  (∀ (C : Cfg) (b : Block) (s : State), Inv C s → s.phase = .fresh →
    serialize (pushBytes C b.toList s).h = pairT C b) ∧
  (∀ (C : Cfg) (m : List Byte), m.length ≤ 55 →
    C.npred (blockAt (pad m) 0)[0] 64 = C.npred (blockAt (pad m) 0)[0] (BitVec.ofNat 64 m.length) →
    pairT C (blockAt (pad m) 0) = nlcHash C m)

/-- The message schedule (42_schedule.md R131, R132): the first 16 words are the big-endian decomposition of the block, the others follow the
recurrence, whatever `ssig0` and `ssig1` are. -/
def Obligations.ScheduleFollowsTheRecurrence : Prop :=
  ∀ (C : Cfg) (b : Block),
    (∀ i : Fin 16, (schedule C b)[i.val].toNat =
      b[4 * i.val].toNat * 2 ^ 24 + b[4 * i.val + 1].toNat * 2 ^ 16 + b[4 * i.val + 2].toNat * 2 ^ 8 +
        b[4 * i.val + 3].toNat) ∧
    (∀ (i : Nat) (_ : 16 ≤ i) (h : i < 64), (schedule C b)[i] =
      (schedule C b)[i - 16] + C.ssig0 (schedule C b)[i - 15] + (schedule C b)[i - 7] + C.ssig1 (schedule C b)[i - 2])

/-! ## The reference stages -/

/-- The integer formulation of the quantum stage gives the five words of the exact rational formulation (45_quantum.md R186 "an equivalent
integer formulation", R181 to R190). -/
def Obligations.QuantumIntegerFormEqualsExactForm : Prop := ∀ r : Words8, refQstage r = qstageExact r

/-- "The probabilities always sum to 1 exactly" and the denominator is `2*D[0]*D[1]*D[2]*D[3]`, below 2^262 (45_quantum.md R186). -/
def Obligations.QuantumProbabilitiesSumToOne : Prop :=
  ∀ r : Words8,
    let s := finalReg r
    let d := fun k => 18446744073709551616 + (angleWord r k : Int) * angleWord r k
    weight s.a0 + weight s.a1 + weight s.a2 + weight s.a3 = s.den * s.den ∧
    s.den = 2 * d 0 * d 1 * d 2 * d 3 ∧ s.den < 2 ^ 262

/-- The measured probability is at least 1/4, so its word is at least 2^30 (45_quantum.md R188, R190 "p in [1/4, 1]"). -/
def Obligations.QuantumProbabilityWordIsAtLeastAQuarter : Prop := ∀ r : Words8, 0x40000000 ≤ (refQstage r).v0

/-- "Under the REF weights no input reaches the upper clamp 2^32 - 1" in either layer of the neural stage (44_neural.md R168). -/
def Obligations.NeuralLayersStayBelowTheUpperClamp : Prop :=
  ∀ (r : Words8) (j : Fin 4), pre1 refK r j / 131072 ≤ 4294967295 ∧ pre2 refK r j / 65536 ≤ 4294967295
end

