-- ==== Sys2Proof/Laws/Bus.lean ====
section
/-! SUPPORT. The byte order of the bus (20_memory.md R52, R54, R66): the bytes of a write's data, and the value of a window read of each
size. -/

namespace Sys2Proof.Machine

/-- The byte of a one-byte write (R52). -/
theorem dataBytes_one (b0 : Byte) : dataBytes 1 (b0.setWidth 32) = [b0] := by
  simp only [dataBytes, List.range_succ, List.range_zero, List.nil_append, List.map_cons, List.map_nil, List.cons.injEq, and_true]
  apply BitVec.eq_of_getLsbD_eq
  intro i hi
  rw [BitVec.getLsbD_extractLsb', BitVec.getLsbD_setWidth]
  interval_cases i <;> simp

/-- The bytes of a two-byte write, low byte first (R66). -/
theorem dataBytes_two (b0 b1 : Byte) : dataBytes 2 ((b1 ++ b0).setWidth 32) = [b0, b1] := by
  simp only [dataBytes, List.range_succ, List.range_zero, List.nil_append, List.map_cons, List.map_nil, List.cons_append,
    List.cons.injEq, and_true]
  refine ⟨?_, ?_⟩ <;>
  · apply BitVec.eq_of_getLsbD_eq
    intro i hi
    rw [BitVec.getLsbD_extractLsb', BitVec.getLsbD_setWidth, BitVec.getLsbD_append]
    interval_cases i <;> simp

/-- The bytes of a four-byte write, low byte first (R66). -/
theorem dataBytes_four (b0 b1 b2 b3 : Byte) : dataBytes 4 (b3 ++ b2 ++ b1 ++ b0) = [b0, b1, b2, b3] := by
  simp only [dataBytes, List.range_succ, List.range_zero, List.nil_append, List.map_cons, List.map_nil, List.cons_append,
    List.cons.injEq, and_true]
  refine ⟨?_, ?_, ?_, ?_⟩ <;>
  · apply BitVec.eq_of_getLsbD_eq
    intro i hi
    rw [BitVec.getLsbD_extractLsb', BitVec.getLsbD_append, BitVec.getLsbD_append, BitVec.getLsbD_append]
    interval_cases i <;> simp

/-- A concatenation as a number, low part last. -/
theorem toNat_concat {n m : Nat} (x : BitVec n) (y : BitVec m) : (x ++ y).toNat = x.toNat * 2 ^ m + y.toNat := by
  rw [BitVec.toNat_append, Nat.shiftLeft_eq, Nat.mul_comm, ← Nat.two_pow_add_eq_or_of_lt y.isLt]

/-- A one-byte window read (R54). -/
theorem windowRead_one (f : Nat → Byte) (i : Nat) : windowRead f i 1 = (f i).setWidth 32 := by
  unfold windowRead leWord
  apply BitVec.eq_of_toNat_eq
  simp [List.range_succ, leNat]

/-- A two-byte window read: the lowest offset in the low bits (R54). -/
theorem windowRead_two (f : Nat → Byte) (i : Nat) : windowRead f i 2 = (f (i + 1) ++ f i).setWidth 32 := by
  have h0 := (f i).isLt
  have h1 := (f (i + 1)).isLt
  unfold windowRead leWord
  apply BitVec.eq_of_toNat_eq
  simp only [List.range_succ, List.range_zero, List.nil_append, List.cons_append, List.map_cons, List.map_nil, leNat,
    BitVec.toNat_ofNat, BitVec.toNat_setWidth, toNat_concat, Nat.add_zero]
  omega

/-- A four-byte window read: the lowest offset in the low bits (R54). -/
theorem windowRead_four (f : Nat → Byte) (i : Nat) :
    windowRead f i 4 = f (i + 3) ++ f (i + 2) ++ f (i + 1) ++ f i := by
  have h0 := (f i).isLt
  have h1 := (f (i + 1)).isLt
  have h2 := (f (i + 2)).isLt
  have h3 := (f (i + 3)).isLt
  unfold windowRead leWord
  apply BitVec.eq_of_toNat_eq
  rw [toNat_concat, toNat_concat, toNat_concat]
  simp only [List.range_succ, List.range_zero, List.nil_append, List.cons_append, List.map_cons, List.map_nil, leNat,
    BitVec.toNat_ofNat, Nat.add_zero]
  omega

end Sys2Proof.Machine
end

