-- ==== Sys2Proof/Laws/Decode.lean ====
section
/-! SUPPORT. The fields of an assembled TX word are the fields it was assembled from (30_encoding.md R81). -/

namespace Sys2Proof

/-- Bit `i` of an assembled word, by the field it lies in (R81). -/
theorem txWord_getLsbD (k z : BitVec 2) (o : Offset) (d : Word) (i : Nat) :
    (txWord k z o d).getLsbD i =
      if i < 32 then d.getLsbD i
      else if i < 48 then o.getLsbD (i - 32)
      else if i < 60 then false
      else if i < 62 then z.getLsbD (i - 60)
      else k.getLsbD (i - 62) := by
  unfold txWord
  rw [BitVec.getLsbD_append, BitVec.getLsbD_append, BitVec.getLsbD_append, BitVec.getLsbD_append]
  by_cases h1 : i < 32
  · simp [h1]
  by_cases h2 : i < 48
  · simp [h1, h2, show i - 32 < 16 by omega]
  by_cases h3 : i < 60
  · simp [h1, h2, h3, show ¬ i - 32 < 16 by omega, show i - 32 - 16 < 12 by omega]
  by_cases h4 : i < 62
  · simp [h1, h2, h3, h4, show ¬ i - 32 < 16 by omega, show ¬ i - 32 - 16 < 12 by omega,
      show i - 32 - 16 - 12 = i - 60 by omega, show ¬ 61 < i by omega]
  · simp [h1, h2, h3, h4, show ¬ i - 32 < 16 by omega, show ¬ i - 32 - 16 < 12 by omega,
      show ¬ i - 32 - 16 - 12 < 2 by omega, show i - 32 - 16 - 12 - 2 = i - 62 by omega]

/-- The same for a bit read at a known place (R81). -/
theorem txWord_getElem (k z : BitVec 2) (o : Offset) (d : Word) (i : Nat) (h : i < 64) :
    (txWord k z o d)[i] =
      if i < 32 then d.getLsbD i
      else if i < 48 then o.getLsbD (i - 32)
      else if i < 60 then false
      else if i < 62 then z.getLsbD (i - 60)
      else k.getLsbD (i - 62) := by
  rw [← BitVec.getLsbD_eq_getElem h, txWord_getLsbD]

@[simp] theorem txKind_txWord (k z : BitVec 2) (o : Offset) (d : Word) : txKind (txWord k z o d) = k := by
  apply BitVec.eq_of_getLsbD_eq
  intro i hi
  simp [txKind, txWord_getLsbD, hi, show ¬ 62 + i < 32 by omega, show ¬ 62 + i < 48 by omega,
    show ¬ 62 + i < 60 by omega, show ¬ 62 + i < 62 by omega]

@[simp] theorem txSz_txWord (k z : BitVec 2) (o : Offset) (d : Word) : txSz (txWord k z o d) = z := by
  apply BitVec.eq_of_getLsbD_eq
  intro i hi
  simp [txSz, txWord_getLsbD, hi, show ¬ 60 + i < 32 by omega, show ¬ 60 + i < 48 by omega,
    show ¬ 60 + i < 60 by omega, show 60 + i < 62 by omega]

@[simp] theorem txRsv_txWord (k z : BitVec 2) (o : Offset) (d : Word) : txRsv (txWord k z o d) = 0 := by
  apply BitVec.eq_of_getLsbD_eq
  intro i hi
  simp [txRsv, BitVec.getLsbD_extractLsb', txWord_getLsbD, show ¬ 48 + i < 32 by omega, show ¬ 48 + i < 48 by omega,
    show 48 + i < 60 by omega]

@[simp] theorem txOff_txWord (k z : BitVec 2) (o : Offset) (d : Word) : txOff (txWord k z o d) = o := by
  apply BitVec.eq_of_getLsbD_eq
  intro i hi
  simp [txOff, txWord_getLsbD, hi, show ¬ 32 + i < 32 by omega, show 32 + i < 48 by omega]

@[simp] theorem txData_txWord (k z : BitVec 2) (o : Offset) (d : Word) : txData (txWord k z o d) = d := by
  apply BitVec.eq_of_getLsbD_eq
  intro i hi
  simp [txData, txWord_getLsbD, hi]

/-- A word with RSV zero is assembled from its own fields (R81). -/
theorem txWord_of_fields (w : TxWord) (h : txRsv w = 0) : txWord (txKind w) (txSz w) (txOff w) (txData w) = w := by
  apply BitVec.eq_of_getLsbD_eq
  intro i hi
  rw [txWord_getLsbD]
  have hr : ∀ j, j < 12 → w.getLsbD (48 + j) = false := by
    intro j hj
    have := congrArg (fun v => v.getLsbD j) h
    simpa [txRsv, BitVec.getLsbD_extractLsb', hj] using this
  split
  · next h1 => simp [txData, h1]
  split
  · next h1 h2 =>
    simp [txOff, show i - 32 < 16 by omega, show 32 + (i - 32) = i by omega]
  split
  · next h1 h2 h3 => simpa [show 48 + (i - 48) = i by omega] using (hr (i - 48) (by omega)).symm
  split
  · next h1 h2 h3 h4 =>
    simp [txSz, show i - 60 < 2 by omega, show 60 + (i - 60) = i by omega]
  · next h1 h2 h3 h4 =>
    simp [txKind, show i - 62 < 2 by omega, show 62 + (i - 62) = i by omega]

end Sys2Proof
end

