-- ==== Sys2Proof/Laws/State.lean ====
section
/-! SUPPORT. One lemma for each field of State under each named update, true by definition, so that a proof about an update never
unfolds a record update. -/

namespace Sys2Proof.Machine

/-! ### raise -/

@[simp] theorem raise_h (b : ErrBit) (s : State) : (s.raise b).h = s.h := rfl
@[simp] theorem raise_qmix (b : ErrBit) (s : State) : (s.raise b).qmix = s.qmix := rfl
@[simp] theorem raise_len (b : ErrBit) (s : State) : (s.raise b).len = s.len := rfl
@[simp] theorem raise_arg (b : ErrBit) (s : State) : (s.raise b).arg = s.arg := rfl
@[simp] theorem raise_rem (b : ErrBit) (s : State) : (s.raise b).rem = s.rem := rfl
@[simp] theorem raise_buf (b : ErrBit) (s : State) : (s.raise b).buf = s.buf := rfl
@[simp] theorem raise_bufcnt (b : ErrBit) (s : State) : (s.raise b).bufcnt = s.bufcnt := rfl
@[simp] theorem raise_out (b : ErrBit) (s : State) : (s.raise b).out = s.out := rfl
@[simp] theorem raise_phase (b : ErrBit) (s : State) : (s.raise b).phase = s.phase := rfl
@[simp] theorem raise_dvalid (b : ErrBit) (s : State) : (s.raise b).dvalid = s.dvalid := rfl
@[simp] theorem raise_st (b : ErrBit) (s : State) : (s.raise b).st = s.st := rfl
@[simp] theorem raise_nfired (b : ErrBit) (s : State) : (s.raise b).nfired = s.nfired := rfl
@[simp] theorem raise_err (b : ErrBit) (s : State) : (s.raise b).err = s.err ||| errMask b := rfl
@[simp] theorem raise_inbox (b : ErrBit) (s : State) : (s.raise b).inbox = s.inbox := rfl
@[simp] theorem raise_responses (b : ErrBit) (s : State) : (s.raise b).responses = s.responses := rfl
@[simp] theorem raise_rstCount (b : ErrBit) (s : State) : (s.raise b).rstCount = s.rstCount := rfl

/-! ### respond -/

@[simp] theorem respond_h (ok : Bool) (v : Word) (s : State) : (s.respond ok v).h = s.h := rfl
@[simp] theorem respond_qmix (ok : Bool) (v : Word) (s : State) : (s.respond ok v).qmix = s.qmix := rfl
@[simp] theorem respond_len (ok : Bool) (v : Word) (s : State) : (s.respond ok v).len = s.len := rfl
@[simp] theorem respond_arg (ok : Bool) (v : Word) (s : State) : (s.respond ok v).arg = s.arg := rfl
@[simp] theorem respond_rem (ok : Bool) (v : Word) (s : State) : (s.respond ok v).rem = s.rem := rfl
@[simp] theorem respond_buf (ok : Bool) (v : Word) (s : State) : (s.respond ok v).buf = s.buf := rfl
@[simp] theorem respond_bufcnt (ok : Bool) (v : Word) (s : State) : (s.respond ok v).bufcnt = s.bufcnt := rfl
@[simp] theorem respond_out (ok : Bool) (v : Word) (s : State) : (s.respond ok v).out = s.out := rfl
@[simp] theorem respond_phase (ok : Bool) (v : Word) (s : State) : (s.respond ok v).phase = s.phase := rfl
@[simp] theorem respond_dvalid (ok : Bool) (v : Word) (s : State) : (s.respond ok v).dvalid = s.dvalid := rfl
@[simp] theorem respond_st (ok : Bool) (v : Word) (s : State) : (s.respond ok v).st = s.st := rfl
@[simp] theorem respond_nfired (ok : Bool) (v : Word) (s : State) : (s.respond ok v).nfired = s.nfired := rfl
@[simp] theorem respond_err (ok : Bool) (v : Word) (s : State) : (s.respond ok v).err = s.err := rfl
@[simp] theorem respond_inbox (ok : Bool) (v : Word) (s : State) : (s.respond ok v).inbox = s.inbox := rfl
@[simp] theorem respond_responses (ok : Bool) (v : Word) (s : State) : (s.respond ok v).responses = s.responses ++ [⟨ok, v⟩] := rfl
@[simp] theorem respond_rstCount (ok : Bool) (v : Word) (s : State) : (s.respond ok v).rstCount = s.rstCount := rfl

/-! ### busError -/

@[simp] theorem busError_h (s : State) : (busError s).h = s.h := rfl
@[simp] theorem busError_qmix (s : State) : (busError s).qmix = s.qmix := rfl
@[simp] theorem busError_len (s : State) : (busError s).len = s.len := rfl
@[simp] theorem busError_arg (s : State) : (busError s).arg = s.arg := rfl
@[simp] theorem busError_rem (s : State) : (busError s).rem = s.rem := rfl
@[simp] theorem busError_buf (s : State) : (busError s).buf = s.buf := rfl
@[simp] theorem busError_bufcnt (s : State) : (busError s).bufcnt = s.bufcnt := rfl
@[simp] theorem busError_out (s : State) : (busError s).out = s.out := rfl
@[simp] theorem busError_phase (s : State) : (busError s).phase = s.phase := rfl
@[simp] theorem busError_dvalid (s : State) : (busError s).dvalid = s.dvalid := rfl
@[simp] theorem busError_st (s : State) : (busError s).st = s.st := rfl
@[simp] theorem busError_nfired (s : State) : (busError s).nfired = s.nfired := rfl
@[simp] theorem busError_err (s : State) : (busError s).err = s.err ||| 0x4 := rfl
@[simp] theorem busError_inbox (s : State) : (busError s).inbox = s.inbox := rfl
@[simp] theorem busError_responses (s : State) : (busError s).responses = s.responses ++ [⟨false, 0⟩] := rfl
@[simp] theorem busError_rstCount (s : State) : (busError s).rstCount = s.rstCount := rfl

/-! ### softReset -/

@[simp] theorem softReset_h (C : Cfg) (s : State) : (softReset C s).h = C.iv := rfl
@[simp] theorem softReset_qmix (C : Cfg) (s : State) : (softReset C s).qmix = 0 := rfl
@[simp] theorem softReset_len (C : Cfg) (s : State) : (softReset C s).len = 0 := rfl
@[simp] theorem softReset_arg (C : Cfg) (s : State) : (softReset C s).arg = s.arg := rfl
@[simp] theorem softReset_rem (C : Cfg) (s : State) : (softReset C s).rem = 0 := rfl
@[simp] theorem softReset_buf (C : Cfg) (s : State) : (softReset C s).buf = s.buf := rfl
@[simp] theorem softReset_bufcnt (C : Cfg) (s : State) : (softReset C s).bufcnt = 0 := rfl
@[simp] theorem softReset_out (C : Cfg) (s : State) : (softReset C s).out = s.out := rfl
@[simp] theorem softReset_phase (C : Cfg) (s : State) : (softReset C s).phase = s.phase := rfl
@[simp] theorem softReset_dvalid (C : Cfg) (s : State) : (softReset C s).dvalid = false := rfl
@[simp] theorem softReset_st (C : Cfg) (s : State) : (softReset C s).st = s.st := rfl
@[simp] theorem softReset_nfired (C : Cfg) (s : State) : (softReset C s).nfired = false := rfl
@[simp] theorem softReset_err (C : Cfg) (s : State) : (softReset C s).err = s.err := rfl
@[simp] theorem softReset_inbox (C : Cfg) (s : State) : (softReset C s).inbox = s.inbox := rfl
@[simp] theorem softReset_responses (C : Cfg) (s : State) : (softReset C s).responses = s.responses := rfl
@[simp] theorem softReset_rstCount (C : Cfg) (s : State) : (softReset C s).rstCount = s.rstCount := rfl

/-! ### compressBlock -/

@[simp] theorem compressBlock_h (C : Cfg) (s : State) : (compressBlock C s).h = (compress C s.h s.qmix s.buf s.len).h := rfl
@[simp] theorem compressBlock_qmix (C : Cfg) (s : State) : (compressBlock C s).qmix = (compress C s.h s.qmix s.buf s.len).q := rfl
@[simp] theorem compressBlock_len (C : Cfg) (s : State) : (compressBlock C s).len = s.len := rfl
@[simp] theorem compressBlock_arg (C : Cfg) (s : State) : (compressBlock C s).arg = s.arg := rfl
@[simp] theorem compressBlock_rem (C : Cfg) (s : State) : (compressBlock C s).rem = s.rem := rfl
@[simp] theorem compressBlock_buf (C : Cfg) (s : State) : (compressBlock C s).buf = s.buf := rfl
@[simp] theorem compressBlock_bufcnt (C : Cfg) (s : State) : (compressBlock C s).bufcnt = 0 := rfl
@[simp] theorem compressBlock_out (C : Cfg) (s : State) : (compressBlock C s).out = s.out := rfl
@[simp] theorem compressBlock_phase (C : Cfg) (s : State) : (compressBlock C s).phase = s.phase := rfl
@[simp] theorem compressBlock_dvalid (C : Cfg) (s : State) : (compressBlock C s).dvalid = s.dvalid := rfl
@[simp] theorem compressBlock_st (C : Cfg) (s : State) : (compressBlock C s).st = s.st := rfl
@[simp] theorem compressBlock_nfired (C : Cfg) (s : State) : (compressBlock C s).nfired = (compress C s.h s.qmix s.buf s.len).act := rfl
@[simp] theorem compressBlock_err (C : Cfg) (s : State) : (compressBlock C s).err = s.err := rfl
@[simp] theorem compressBlock_inbox (C : Cfg) (s : State) : (compressBlock C s).inbox = s.inbox := rfl
@[simp] theorem compressBlock_responses (C : Cfg) (s : State) : (compressBlock C s).responses = s.responses := rfl
@[simp] theorem compressBlock_rstCount (C : Cfg) (s : State) : (compressBlock C s).rstCount = s.rstCount := rfl

/-! ### serOut -/

@[simp] theorem serOut_h (s : State) : (serOut s).h = s.h := rfl
@[simp] theorem serOut_qmix (s : State) : (serOut s).qmix = s.qmix := rfl
@[simp] theorem serOut_len (s : State) : (serOut s).len = s.len := rfl
@[simp] theorem serOut_arg (s : State) : (serOut s).arg = s.arg := rfl
@[simp] theorem serOut_rem (s : State) : (serOut s).rem = s.rem := rfl
@[simp] theorem serOut_buf (s : State) : (serOut s).buf = s.buf := rfl
@[simp] theorem serOut_bufcnt (s : State) : (serOut s).bufcnt = s.bufcnt := rfl
@[simp] theorem serOut_out (s : State) : (serOut s).out = serialize s.h := rfl
@[simp] theorem serOut_phase (s : State) : (serOut s).phase = s.phase := rfl
@[simp] theorem serOut_dvalid (s : State) : (serOut s).dvalid = true := rfl
@[simp] theorem serOut_st (s : State) : (serOut s).st = s.st := rfl
@[simp] theorem serOut_nfired (s : State) : (serOut s).nfired = s.nfired := rfl
@[simp] theorem serOut_err (s : State) : (serOut s).err = s.err := rfl
@[simp] theorem serOut_inbox (s : State) : (serOut s).inbox = s.inbox := rfl
@[simp] theorem serOut_responses (s : State) : (serOut s).responses = s.responses := rfl
@[simp] theorem serOut_rstCount (s : State) : (serOut s).rstCount = s.rstCount := rfl

/-! ### storeByte -/

@[simp] theorem storeByte_h (b : Byte) (s : State) : (storeByte b s).h = s.h := rfl
@[simp] theorem storeByte_qmix (b : Byte) (s : State) : (storeByte b s).qmix = s.qmix := rfl
@[simp] theorem storeByte_len (b : Byte) (s : State) : (storeByte b s).len = s.len + 1 := rfl
@[simp] theorem storeByte_arg (b : Byte) (s : State) : (storeByte b s).arg = s.arg := rfl
@[simp] theorem storeByte_rem (b : Byte) (s : State) : (storeByte b s).rem = s.rem := rfl
@[simp] theorem storeByte_buf (b : Byte) (s : State) : (storeByte b s).buf = storeAt s.bufcnt b s.buf := rfl
@[simp] theorem storeByte_bufcnt (b : Byte) (s : State) : (storeByte b s).bufcnt = s.bufcnt := rfl
@[simp] theorem storeByte_out (b : Byte) (s : State) : (storeByte b s).out = s.out := rfl
@[simp] theorem storeByte_phase (b : Byte) (s : State) : (storeByte b s).phase = if s.phase = .fresh then .accum else s.phase := rfl
@[simp] theorem storeByte_dvalid (b : Byte) (s : State) : (storeByte b s).dvalid = s.dvalid := rfl
@[simp] theorem storeByte_st (b : Byte) (s : State) : (storeByte b s).st = s.st := rfl
@[simp] theorem storeByte_nfired (b : Byte) (s : State) : (storeByte b s).nfired = s.nfired := rfl
@[simp] theorem storeByte_err (b : Byte) (s : State) : (storeByte b s).err = s.err := rfl
@[simp] theorem storeByte_inbox (b : Byte) (s : State) : (storeByte b s).inbox = s.inbox := rfl
@[simp] theorem storeByte_responses (b : Byte) (s : State) : (storeByte b s).responses = s.responses := rfl
@[simp] theorem storeByte_rstCount (b : Byte) (s : State) : (storeByte b s).rstCount = s.rstCount := rfl

/-! ### pairBlockDone -/

@[simp] theorem pairBlockDone_h (C : Cfg) (s : State) : (pairBlockDone C s).h = C.iv := rfl
@[simp] theorem pairBlockDone_qmix (C : Cfg) (s : State) : (pairBlockDone C s).qmix = 0 := rfl
@[simp] theorem pairBlockDone_len (C : Cfg) (s : State) : (pairBlockDone C s).len = 0 := rfl
@[simp] theorem pairBlockDone_arg (C : Cfg) (s : State) : (pairBlockDone C s).arg = s.arg := rfl
@[simp] theorem pairBlockDone_rem (C : Cfg) (s : State) : (pairBlockDone C s).rem = s.rem - 1 := rfl
@[simp] theorem pairBlockDone_buf (C : Cfg) (s : State) : (pairBlockDone C s).buf = s.buf := rfl
@[simp] theorem pairBlockDone_bufcnt (C : Cfg) (s : State) : (pairBlockDone C s).bufcnt = s.bufcnt := rfl
@[simp] theorem pairBlockDone_out (C : Cfg) (s : State) : (pairBlockDone C s).out = serialize s.h := rfl
@[simp] theorem pairBlockDone_phase (C : Cfg) (s : State) : (pairBlockDone C s).phase = if s.rem - 1 = 0 then .finalized else s.phase := rfl
@[simp] theorem pairBlockDone_dvalid (C : Cfg) (s : State) : (pairBlockDone C s).dvalid = true := rfl
@[simp] theorem pairBlockDone_st (C : Cfg) (s : State) : (pairBlockDone C s).st = s.st := rfl
@[simp] theorem pairBlockDone_nfired (C : Cfg) (s : State) : (pairBlockDone C s).nfired = s.nfired := rfl
@[simp] theorem pairBlockDone_err (C : Cfg) (s : State) : (pairBlockDone C s).err = s.err := rfl
@[simp] theorem pairBlockDone_inbox (C : Cfg) (s : State) : (pairBlockDone C s).inbox = s.inbox := rfl
@[simp] theorem pairBlockDone_responses (C : Cfg) (s : State) : (pairBlockDone C s).responses = s.responses := rfl
@[simp] theorem pairBlockDone_rstCount (C : Cfg) (s : State) : (pairBlockDone C s).rstCount = s.rstCount := rfl

/-! ### setArgLo -/

@[simp] theorem setArgLo_h (v : Word) (s : State) : (setArgLo v s).h = s.h := rfl
@[simp] theorem setArgLo_qmix (v : Word) (s : State) : (setArgLo v s).qmix = s.qmix := rfl
@[simp] theorem setArgLo_len (v : Word) (s : State) : (setArgLo v s).len = s.len := rfl
@[simp] theorem setArgLo_arg (v : Word) (s : State) : (setArgLo v s).arg = hiWord s.arg ++ v := rfl
@[simp] theorem setArgLo_rem (v : Word) (s : State) : (setArgLo v s).rem = s.rem := rfl
@[simp] theorem setArgLo_buf (v : Word) (s : State) : (setArgLo v s).buf = s.buf := rfl
@[simp] theorem setArgLo_bufcnt (v : Word) (s : State) : (setArgLo v s).bufcnt = s.bufcnt := rfl
@[simp] theorem setArgLo_out (v : Word) (s : State) : (setArgLo v s).out = s.out := rfl
@[simp] theorem setArgLo_phase (v : Word) (s : State) : (setArgLo v s).phase = s.phase := rfl
@[simp] theorem setArgLo_dvalid (v : Word) (s : State) : (setArgLo v s).dvalid = s.dvalid := rfl
@[simp] theorem setArgLo_st (v : Word) (s : State) : (setArgLo v s).st = s.st := rfl
@[simp] theorem setArgLo_nfired (v : Word) (s : State) : (setArgLo v s).nfired = s.nfired := rfl
@[simp] theorem setArgLo_err (v : Word) (s : State) : (setArgLo v s).err = s.err := rfl
@[simp] theorem setArgLo_inbox (v : Word) (s : State) : (setArgLo v s).inbox = s.inbox := rfl
@[simp] theorem setArgLo_responses (v : Word) (s : State) : (setArgLo v s).responses = s.responses := rfl
@[simp] theorem setArgLo_rstCount (v : Word) (s : State) : (setArgLo v s).rstCount = s.rstCount := rfl

/-! ### setArgHi -/

@[simp] theorem setArgHi_h (v : Word) (s : State) : (setArgHi v s).h = s.h := rfl
@[simp] theorem setArgHi_qmix (v : Word) (s : State) : (setArgHi v s).qmix = s.qmix := rfl
@[simp] theorem setArgHi_len (v : Word) (s : State) : (setArgHi v s).len = s.len := rfl
@[simp] theorem setArgHi_arg (v : Word) (s : State) : (setArgHi v s).arg = v ++ loWord s.arg := rfl
@[simp] theorem setArgHi_rem (v : Word) (s : State) : (setArgHi v s).rem = s.rem := rfl
@[simp] theorem setArgHi_buf (v : Word) (s : State) : (setArgHi v s).buf = s.buf := rfl
@[simp] theorem setArgHi_bufcnt (v : Word) (s : State) : (setArgHi v s).bufcnt = s.bufcnt := rfl
@[simp] theorem setArgHi_out (v : Word) (s : State) : (setArgHi v s).out = s.out := rfl
@[simp] theorem setArgHi_phase (v : Word) (s : State) : (setArgHi v s).phase = s.phase := rfl
@[simp] theorem setArgHi_dvalid (v : Word) (s : State) : (setArgHi v s).dvalid = s.dvalid := rfl
@[simp] theorem setArgHi_st (v : Word) (s : State) : (setArgHi v s).st = s.st := rfl
@[simp] theorem setArgHi_nfired (v : Word) (s : State) : (setArgHi v s).nfired = s.nfired := rfl
@[simp] theorem setArgHi_err (v : Word) (s : State) : (setArgHi v s).err = s.err := rfl
@[simp] theorem setArgHi_inbox (v : Word) (s : State) : (setArgHi v s).inbox = s.inbox := rfl
@[simp] theorem setArgHi_responses (v : Word) (s : State) : (setArgHi v s).responses = s.responses := rfl
@[simp] theorem setArgHi_rstCount (v : Word) (s : State) : (setArgHi v s).rstCount = s.rstCount := rfl

/-! ### hardReset -/

@[simp] theorem hardReset_h (C : Cfg) (s : State) : (hardReset C s).h = C.iv := rfl
@[simp] theorem hardReset_qmix (C : Cfg) (s : State) : (hardReset C s).qmix = 0 := rfl
@[simp] theorem hardReset_len (C : Cfg) (s : State) : (hardReset C s).len = 0 := rfl
@[simp] theorem hardReset_arg (C : Cfg) (s : State) : (hardReset C s).arg = 0 := rfl
@[simp] theorem hardReset_rem (C : Cfg) (s : State) : (hardReset C s).rem = 0 := rfl
@[simp] theorem hardReset_buf (C : Cfg) (s : State) : (hardReset C s).buf = freeBlock s.rstCount := rfl
@[simp] theorem hardReset_bufcnt (C : Cfg) (s : State) : (hardReset C s).bufcnt = 0 := rfl
@[simp] theorem hardReset_out (C : Cfg) (s : State) : (hardReset C s).out = Vector.replicate 32 0 := rfl
@[simp] theorem hardReset_phase (C : Cfg) (s : State) : (hardReset C s).phase = .fresh := rfl
@[simp] theorem hardReset_dvalid (C : Cfg) (s : State) : (hardReset C s).dvalid = false := rfl
@[simp] theorem hardReset_st (C : Cfg) (s : State) : (hardReset C s).st = .notRun := rfl
@[simp] theorem hardReset_nfired (C : Cfg) (s : State) : (hardReset C s).nfired = false := rfl
@[simp] theorem hardReset_err (C : Cfg) (s : State) : (hardReset C s).err = 0 := rfl
@[simp] theorem hardReset_inbox (C : Cfg) (s : State) : (hardReset C s).inbox = s.inbox := rfl
@[simp] theorem hardReset_responses (C : Cfg) (s : State) : (hardReset C s).responses = s.responses := rfl
@[simp] theorem hardReset_rstCount (C : Cfg) (s : State) : (hardReset C s).rstCount = s.rstCount + 1 := rfl

/-! ### taken -/

@[simp] theorem taken_h (rest : List TxWord) (s : State) : (taken rest s).h = s.h := rfl
@[simp] theorem taken_qmix (rest : List TxWord) (s : State) : (taken rest s).qmix = s.qmix := rfl
@[simp] theorem taken_len (rest : List TxWord) (s : State) : (taken rest s).len = s.len := rfl
@[simp] theorem taken_arg (rest : List TxWord) (s : State) : (taken rest s).arg = s.arg := rfl
@[simp] theorem taken_rem (rest : List TxWord) (s : State) : (taken rest s).rem = s.rem := rfl
@[simp] theorem taken_buf (rest : List TxWord) (s : State) : (taken rest s).buf = s.buf := rfl
@[simp] theorem taken_bufcnt (rest : List TxWord) (s : State) : (taken rest s).bufcnt = s.bufcnt := rfl
@[simp] theorem taken_out (rest : List TxWord) (s : State) : (taken rest s).out = s.out := rfl
@[simp] theorem taken_phase (rest : List TxWord) (s : State) : (taken rest s).phase = s.phase := rfl
@[simp] theorem taken_dvalid (rest : List TxWord) (s : State) : (taken rest s).dvalid = s.dvalid := rfl
@[simp] theorem taken_st (rest : List TxWord) (s : State) : (taken rest s).st = s.st := rfl
@[simp] theorem taken_nfired (rest : List TxWord) (s : State) : (taken rest s).nfired = s.nfired := rfl
@[simp] theorem taken_err (rest : List TxWord) (s : State) : (taken rest s).err = s.err := rfl
@[simp] theorem taken_inbox (rest : List TxWord) (s : State) : (taken rest s).inbox = rest := rfl
@[simp] theorem taken_responses (rest : List TxWord) (s : State) : (taken rest s).responses = s.responses := rfl
@[simp] theorem taken_rstCount (rest : List TxWord) (s : State) : (taken rest s).rstCount = s.rstCount := rfl

/-! ### placeFirst -/

@[simp] theorem placeFirst_h (w : TxWord) (s : State) : (placeFirst w s).h = s.h := rfl
@[simp] theorem placeFirst_qmix (w : TxWord) (s : State) : (placeFirst w s).qmix = s.qmix := rfl
@[simp] theorem placeFirst_len (w : TxWord) (s : State) : (placeFirst w s).len = s.len := rfl
@[simp] theorem placeFirst_arg (w : TxWord) (s : State) : (placeFirst w s).arg = s.arg := rfl
@[simp] theorem placeFirst_rem (w : TxWord) (s : State) : (placeFirst w s).rem = s.rem := rfl
@[simp] theorem placeFirst_buf (w : TxWord) (s : State) : (placeFirst w s).buf = s.buf := rfl
@[simp] theorem placeFirst_bufcnt (w : TxWord) (s : State) : (placeFirst w s).bufcnt = s.bufcnt := rfl
@[simp] theorem placeFirst_out (w : TxWord) (s : State) : (placeFirst w s).out = s.out := rfl
@[simp] theorem placeFirst_phase (w : TxWord) (s : State) : (placeFirst w s).phase = s.phase := rfl
@[simp] theorem placeFirst_dvalid (w : TxWord) (s : State) : (placeFirst w s).dvalid = s.dvalid := rfl
@[simp] theorem placeFirst_st (w : TxWord) (s : State) : (placeFirst w s).st = s.st := rfl
@[simp] theorem placeFirst_nfired (w : TxWord) (s : State) : (placeFirst w s).nfired = s.nfired := rfl
@[simp] theorem placeFirst_err (w : TxWord) (s : State) : (placeFirst w s).err = s.err := rfl
@[simp] theorem placeFirst_inbox (w : TxWord) (s : State) : (placeFirst w s).inbox = w :: s.inbox := rfl
@[simp] theorem placeFirst_responses (w : TxWord) (s : State) : (placeFirst w s).responses = s.responses := rfl
@[simp] theorem placeFirst_rstCount (w : TxWord) (s : State) : (placeFirst w s).rstCount = s.rstCount := rfl

end Sys2Proof.Machine
end

