-- ==== Sys2Proof/Laws/Ops.lean ====
section
/-! SUPPORT. For each shared operation, one lemma that says once everything it can do. -/

namespace Sys2Proof.Machine

/-! ### Padding and finalisation -/

/-- `PadFinal` writes only what block compressions and the filling of `BUF` write, and leaves `BUFCNT = 0`
(41_padding.md R122). -/
theorem padFinal_eq (C : Cfg) (s : State) : ∃ h q nf b,
    padFinal C s = { s with h := h, qmix := q, nfired := nf, buf := b, bufcnt := 0 } := by
  unfold padFinal
  dsimp only
  split
  · exact ⟨_, _, _, _, rfl⟩
  · exact ⟨_, _, _, _, rfl⟩

/-- `Finalize()` writes what `PadFinal` writes, `OUT` (the serialisation of the new `H`), `DVALID` and `PHASE`
(46_streaming.md R208). -/
theorem finalize_eq (C : Cfg) (s : State) : ∃ h q nf b,
    finalize C s = { s with
      h := h, qmix := q, nfired := nf, buf := b, bufcnt := 0, out := serialize h, dvalid := true, phase := .finalized } := by
  obtain ⟨h, q, nf, b, e⟩ := padFinal_eq C s
  refine ⟨h, q, nf, b, ?_⟩
  unfold finalize
  rw [e]
  rfl

/-- `PadFinal` and `Finalize()` read only `H`, `QMIX`, `LEN`, `BUFCNT` and `BUF`: changing any other field before is changing it
after. -/
theorem padFinal_congr (C : Cfg) (s t : State) (hh : s.h = t.h) (hq : s.qmix = t.qmix) (hl : s.len = t.len)
    (hb : s.buf = t.buf) (hc : s.bufcnt = t.bufcnt) :
    padFinal C t = { t with
      h := (padFinal C s).h, qmix := (padFinal C s).qmix, nfired := (padFinal C s).nfired,
      buf := (padFinal C s).buf, bufcnt := 0 } := by
  unfold padFinal
  dsimp only
  rw [← hc, ← hl, ← hb]
  split
  · simp only [compressBlock, hh, hq, hl]
  · simp only [compressBlock, hh, hq, hl]

/-! ### Pushing -/

/-- The end of a full block outside PAIR is the compression alone (46_streaming.md R205). -/
theorem blockFull_of_not_pair (C : Cfg) (s : State) (hp : s.phase ≠ .pair) : blockFull C s = compressBlock C s := by
  simp [blockFull, hp]

/-- The end of a full block in PAIR is the compression and `PairBlockDone()` (47_oneshot_pair.md R238). -/
theorem blockFull_of_pair (C : Cfg) (s : State) (hp : s.phase = .pair) :
    blockFull C s = pairBlockDone C (compressBlock C s) := by
  simp [blockFull, hp]

/-- A byte that does not fill the buffer is stored and counted (46_streaming.md R205). -/
theorem countByte_of_room (C : Cfg) (b : Byte) (s : State) (hc : s.bufcnt ≠ 63) :
    countByte C b s = { storeByte b s with bufcnt := s.bufcnt + 1 } := by
  simp [countByte, hc]

/-- A byte that fills the buffer is stored and the block is compressed (46_streaming.md R205). -/
theorem countByte_of_full (C : Cfg) (b : Byte) (s : State) (hc : s.bufcnt = 63) :
    countByte C b s = blockFull C (storeByte b s) := by
  simp [countByte, hc]

/-- Outside ONESHOT nothing is counted down (46_streaming.md R205). -/
theorem countDown_of_not_oneshot (C : Cfg) (s : State) (hp : s.phase ≠ .oneshot) : countDown C s = s := by
  simp [countDown, hp]

/-- In ONESHOT `REM` goes down by one (46_streaming.md R205). -/
theorem countDown_of_more (C : Cfg) (s : State) (hp : s.phase = .oneshot) (hr : s.rem - 1 ≠ 0) :
    countDown C s = { s with rem := s.rem - 1 } := by
  simp only [countDown, hp, if_true, hr, if_false]

/-- When `REM` reaches 0 the core finalises by itself (46_streaming.md R205). -/
theorem countDown_of_last (C : Cfg) (s : State) (hp : s.phase = .oneshot) (hr : s.rem - 1 = 0) :
    countDown C s = finalize C { s with rem := 0 } := by
  simp only [countDown, hp, if_true, hr]

/-- A byte is accepted in FRESH, ACCUM, ONESHOT and PAIR (46_streaming.md R205). -/
theorem pushByte_of_open (C : Cfg) (b : Byte) (s : State) (h1 : s.phase ≠ .finalized) (h2 : s.phase ≠ .fatal) :
    pushByte C b s = countDown C (countByte C b s) := by
  cases hp : s.phase <;> simp_all [pushByte]

/-- A byte is dropped with Err(SEQ) in FINALIZED and FATAL (46_streaming.md R205). -/
theorem pushByte_of_closed (C : Cfg) (b : Byte) (s : State) (h : s.phase = .finalized ∨ s.phase = .fatal) :
    pushByte C b s = s.raise .seq := by
  rcases h with h | h <;> simp [pushByte, h]

@[simp] theorem pushBytes_nil (C : Cfg) (s : State) : pushBytes C [] s = s := rfl

@[simp] theorem pushBytes_cons (C : Cfg) (b : Byte) (bs : List Byte) (s : State) :
    pushBytes C (b :: bs) s = pushBytes C bs (pushByte C b s) := rfl

theorem pushBytes_append (C : Cfg) (as bs : List Byte) (s : State) :
    pushBytes C (as ++ bs) s = pushBytes C bs (pushBytes C as s) := by
  simp [pushBytes]

/-- What one accepted byte leaves alone: `ARG`, `ST`, `ERR` and the model's own fields (46_streaming.md R205, 43_compression.md R152,
47_oneshot_pair.md R238). -/
theorem countByte_frame (C : Cfg) (b : Byte) (s : State) :
    (countByte C b s).arg = s.arg ∧ (countByte C b s).st = s.st ∧ (countByte C b s).err = s.err ∧
    (countByte C b s).inbox = s.inbox ∧ (countByte C b s).responses = s.responses ∧
    (countByte C b s).rstCount = s.rstCount := by
  by_cases hc : s.bufcnt = 63
  · rw [countByte_of_full C b s hc]
    unfold blockFull
    dsimp only
    split <;> simp
  · rw [countByte_of_room C b s hc]
    simp

theorem countDown_frame (C : Cfg) (s : State) :
    (countDown C s).arg = s.arg ∧ (countDown C s).st = s.st ∧ (countDown C s).err = s.err ∧
    (countDown C s).inbox = s.inbox ∧ (countDown C s).responses = s.responses ∧
    (countDown C s).rstCount = s.rstCount := by
  unfold countDown
  dsimp only
  split
  · split
    · obtain ⟨h, q, nf, b, e⟩ := finalize_eq C { s with rem := s.rem - 1 }
      rw [e]
      simp
    · simp
  · simp

/-- What a push leaves alone whatever it does; of `ERR` it can set SEQ only, and only where the byte is dropped
(46_streaming.md R205). -/
theorem pushByte_frame (C : Cfg) (b : Byte) (s : State) :
    (pushByte C b s).arg = s.arg ∧ (pushByte C b s).st = s.st ∧ (pushByte C b s).inbox = s.inbox ∧
    (pushByte C b s).responses = s.responses ∧ (pushByte C b s).rstCount = s.rstCount ∧
    ((pushByte C b s).err = s.err ∨ pushByte C b s = s.raise .seq) := by
  by_cases h : s.phase = .finalized ∨ s.phase = .fatal
  · rw [pushByte_of_closed C b s h]
    simp
  · rw [not_or] at h
    rw [pushByte_of_open C b s h.1 h.2]
    obtain ⟨a1, a2, a3, a4, a5, a6⟩ := countDown_frame C (countByte C b s)
    obtain ⟨b1, b2, b3, b4, b5, b6⟩ := countByte_frame C b s
    exact ⟨a1.trans b1, a2.trans b2, a4.trans b4, a5.trans b5, a6.trans b6, .inl (a3.trans b3)⟩

/-- The same of a list of bytes: what all the pushes together leave alone, and the only bit of `ERR` they can set
(46_streaming.md R205). -/
theorem pushBytes_frame (C : Cfg) (bs : List Byte) (s : State) :
    (pushBytes C bs s).arg = s.arg ∧ (pushBytes C bs s).st = s.st ∧ (pushBytes C bs s).inbox = s.inbox ∧
    (pushBytes C bs s).responses = s.responses ∧ (pushBytes C bs s).rstCount = s.rstCount ∧
    ((pushBytes C bs s).err = s.err ∨ (pushBytes C bs s).err = s.err ||| 0x1) := by
  induction bs generalizing s with
  | nil => simp
  | cons b bs ih =>
    obtain ⟨a1, a2, a3, a4, a5, a6⟩ := ih (pushByte C b s)
    obtain ⟨b1, b2, b3, b4, b5, b6⟩ := pushByte_frame C b s
    refine ⟨a1.trans b1, a2.trans b2, a3.trans b3, a4.trans b4, a5.trans b5, ?_⟩
    have b6' : (pushByte C b s).err = s.err ∨ (pushByte C b s).err = s.err ||| 0x1 := by
      rcases b6 with h | h
      · exact .inl h
      · rw [h]
        exact .inr rfl
    rw [pushBytes_cons]
    rcases a6 with h | h <;> rcases b6' with g | g <;> rw [h, g]
    · simp
    · simp
    · simp
    · right
      rw [BitVec.or_assoc, BitVec.or_self]

/-! ### Commands -/

/-- A command out of its phases does Err(SEQ) and nothing else (30_encoding.md R85). -/
theorem runCommand_of_illegal (C : Cfg) (c : Command) (s : State) (h : commandLegal c s.phase = false) :
    runCommand C c s = s.raise .seq := by
  simp [runCommand, h]

/-- A command in one of its phases runs its rule (30_encoding.md R85). -/
theorem runCommand_of_legal (C : Cfg) (c : Command) (s : State) (h : commandLegal c s.phase = true) :
    runCommand C c s = commandEffect C c s := by
  simp [runCommand, h]

/-- HASH with a length announced (47_oneshot_pair.md R232). -/
theorem hashCommand_of_length (C : Cfg) (s : State) (h : s.arg ≠ 0) :
    hashCommand C s = { softReset C s with rem := s.arg, phase := .oneshot } := by
  unfold hashCommand
  dsimp only
  rw [if_neg h]

/-- HASH of the empty message (47_oneshot_pair.md R232). -/
theorem hashCommand_of_empty (C : Cfg) (s : State) (h : s.arg = 0) :
    hashCommand C s = finalize C (softReset C s) := by
  simp only [hashCommand, h, if_true]
  rfl

/-- PAIR with a count announced (47_oneshot_pair.md R236). -/
theorem pairCommand_of_count (C : Cfg) (s : State) (h : s.arg ≠ 0) :
    pairCommand C s = { softReset C s with rem := s.arg, phase := .pair } := by
  unfold pairCommand
  dsimp only
  rw [if_neg h]

/-- PAIR of no input (47_oneshot_pair.md R236). -/
theorem pairCommand_of_none (C : Cfg) (s : State) (h : s.arg = 0) :
    pairCommand C s = { softReset C s with phase := .finalized } := by
  simp only [pairCommand, h, if_true]
  rfl

/-- The two outcomes of NAME (48_selftest.md R253). -/
theorem nameCommand_cases (C : Cfg) (s : State) :
    ((selfTestRun C s).out = C.stDigest ∧
      nameCommand C s = { softReset C { selfTestRun C s with st := .pass } with phase := .fresh }) ∨
    ((selfTestRun C s).out ≠ C.stDigest ∧
      nameCommand C s = { softReset C (State.raise .selftest { selfTestRun C s with st := .fail }) with phase := .fatal }) := by
  by_cases h : (selfTestRun C s).out = C.stDigest
  · exact .inl ⟨h, by simp only [nameCommand, h, if_true]⟩
  · exact .inr ⟨h, by simp only [nameCommand, h, if_false]⟩

/-! ### Transactions -/

/-- A read answers an error response with Err(BUS), or a value and changes nothing else (20_memory.md R55, R56). -/
theorem busRead_cases (C : Cfg) (n : Size) (off : Offset) (s : State) :
    (admitted .read n off = none ∧ busRead C n off s = busError s) ∨
    ∃ r, admitted .read n off = some r ∧ busRead C n off s = s.respond true (readValue C s r off.toNat (sizeBytes n)) := by
  unfold busRead
  cases h : admitted .read n off with
  | none => exact .inl ⟨rfl, rfl⟩
  | some r => exact .inr ⟨r, rfl, rfl⟩

/-- A write answers an error response with Err(BUS), or does one of the three things of 20_memory.md R57. -/
theorem busWrite_cases (C : Cfg) (n : Size) (off : Offset) (v : Word) (s : State) :
    busWrite C n off v s = busError s ∨
    (admitted .write n off = some .argLo ∧ busWrite C n off v s = (setArgLo v s).respond true 0) ∨
    (admitted .write n off = some .argHi ∧ busWrite C n off v s = (setArgHi v s).respond true 0) ∨
    (admitted .write n off = some .cmd ∧ busWrite C n off v s = (writeCommand C v s).respond true 0) ∨
    (admitted .write n off = some .msg ∧
      busWrite C n off v s = (pushBytes C (dataBytes (sizeBytes n) v) s).respond true 0) := by
  unfold busWrite
  cases admitted .write n off with
  | none => exact .inl rfl
  | some r => cases r <;> simp

end Sys2Proof.Machine
end

