-- ==== Sys2Proof/Laws/Exec.lean ====
section
/-! SUPPORT. What exec calls: one equation for each instruction. -/

namespace Sys2Proof.Machine

@[simp] theorem exec_rd1 (off : Offset) (s : State) : exec (.rd1 off) s = .next (busRead cfg .one off s) := rfl
@[simp] theorem exec_rd2 (off : Offset) (s : State) : exec (.rd2 off) s = .next (busRead cfg .two off s) := rfl
@[simp] theorem exec_rd4 (off : Offset) (s : State) : exec (.rd4 off) s = .next (busRead cfg .four off s) := rfl
@[simp] theorem exec_wr1 (off : Offset) (v : BitVec 8) (s : State) :
    exec (.wr1 off v) s = .next (busWrite cfg .one off (v.setWidth 32) s) := rfl
@[simp] theorem exec_wr2 (off : Offset) (v : BitVec 16) (s : State) :
    exec (.wr2 off v) s = .next (busWrite cfg .two off (v.setWidth 32) s) := rfl
@[simp] theorem exec_wr4 (off : Offset) (v : BitVec 32) (s : State) :
    exec (.wr4 off v) s = .next (busWrite cfg .four off v s) := rfl
@[simp] theorem exec_rst (s : State) : exec .rst s = .next ((hardReset cfg s).respond true 0) := rfl
@[simp] theorem exec_cmdReset (s : State) : exec .cmdReset s = .next ((runCommand cfg .reset s).respond true 0) := rfl
@[simp] theorem exec_cmdFinal (s : State) : exec .cmdFinal s = .next ((runCommand cfg .final s).respond true 0) := rfl
@[simp] theorem exec_cmdHash (s : State) : exec .cmdHash s = .next ((runCommand cfg .hash s).respond true 0) := rfl
@[simp] theorem exec_cmdPair (s : State) : exec .cmdPair s = .next ((runCommand cfg .pair s).respond true 0) := rfl
@[simp] theorem exec_cmdName (s : State) : exec .cmdName s = .next ((runCommand cfg .name s).respond true 0) := rfl
@[simp] theorem exec_push1 (b0 : Byte) (s : State) :
    exec (.push1 b0) s = .next ((pushBytes cfg [b0] s).respond true 0) := rfl
@[simp] theorem exec_push2 (b0 b1 : Byte) (s : State) :
    exec (.push2 b0 b1) s = .next ((pushBytes cfg [b0, b1] s).respond true 0) := rfl
@[simp] theorem exec_push4 (b0 b1 b2 b3 : Byte) (s : State) :
    exec (.push4 b0 b1 b2 b3) s = .next ((pushBytes cfg [b0, b1, b2, b3] s).respond true 0) := rfl
@[simp] theorem exec_setargLo (v : Word) (s : State) :
    exec (.setargLo v) s = .next ((setArgLo v s).respond true 0) := rfl
@[simp] theorem exec_setargHi (v : Word) (s : State) :
    exec (.setargHi v) s = .next ((setArgHi v s).respond true 0) := rfl

end Sys2Proof.Machine
end

