-- ==== Sys2Proof/Laws/PerInstr.lean ====
section
/-! SUPPORT. A statement about every instruction as syntax, one lemma per constructor: its word has the fixed bits of its row
(30_encoding.md R88). -/

namespace Sys2Proof.Laws

/-- The word of the instruction belongs to the instruction's row of R88. -/
def EncodingRow.Statement (i : Instr) : Prop := encode i &&& i.row.mask = i.row.value

/-- A mask over an assembled word, bit by bit: enough to look at the 64 bits. -/
theorem masked_eq (w m v : TxWord) (h : ∀ i < 64, (w.getLsbD i && m.getLsbD i) = v.getLsbD i) : w &&& m = v := by
  apply BitVec.eq_of_getLsbD_eq
  intro i hi
  rw [BitVec.getLsbD_and]
  exact h i hi

theorem EncodingRow.rd1 (off : Offset) : EncodingRow.Statement (.rd1 off) := by
  refine masked_eq _ _ _ fun i hi => ?_
  interval_cases i <;> simp [encode, Instr.row, txWord_getElem]

theorem EncodingRow.rd2 (off : Offset) : EncodingRow.Statement (.rd2 off) := by
  refine masked_eq _ _ _ fun i hi => ?_
  interval_cases i <;> simp [encode, Instr.row, txWord_getElem]

theorem EncodingRow.rd4 (off : Offset) : EncodingRow.Statement (.rd4 off) := by
  refine masked_eq _ _ _ fun i hi => ?_
  interval_cases i <;> simp [encode, Instr.row, txWord_getElem]

theorem EncodingRow.wr1 (off : Offset) (v : BitVec 8) : EncodingRow.Statement (.wr1 off v) := by
  refine masked_eq _ _ _ fun i hi => ?_
  interval_cases i <;> simp [encode, Instr.row, txWord_getElem]

theorem EncodingRow.wr2 (off : Offset) (v : BitVec 16) : EncodingRow.Statement (.wr2 off v) := by
  refine masked_eq _ _ _ fun i hi => ?_
  interval_cases i <;> simp [encode, Instr.row, txWord_getElem]

theorem EncodingRow.wr4 (off : Offset) (v : BitVec 32) : EncodingRow.Statement (.wr4 off v) := by
  refine masked_eq _ _ _ fun i hi => ?_
  interval_cases i <;> simp [encode, Instr.row, txWord_getElem]

theorem EncodingRow.rst : EncodingRow.Statement .rst := by
  unfold EncodingRow.Statement
  decide

theorem EncodingRow.cmdReset : EncodingRow.Statement .cmdReset := by
  unfold EncodingRow.Statement
  decide

theorem EncodingRow.cmdFinal : EncodingRow.Statement .cmdFinal := by
  unfold EncodingRow.Statement
  decide

theorem EncodingRow.cmdHash : EncodingRow.Statement .cmdHash := by
  unfold EncodingRow.Statement
  decide

theorem EncodingRow.cmdPair : EncodingRow.Statement .cmdPair := by
  unfold EncodingRow.Statement
  decide

theorem EncodingRow.cmdName : EncodingRow.Statement .cmdName := by
  unfold EncodingRow.Statement
  decide

theorem EncodingRow.push1 (b0 : Byte) : EncodingRow.Statement (.push1 b0) := by
  refine masked_eq _ _ _ fun i hi => ?_
  interval_cases i <;> simp [encode, Instr.row, txWord_getElem, offMsg]

theorem EncodingRow.push2 (b0 b1 : Byte) : EncodingRow.Statement (.push2 b0 b1) := by
  refine masked_eq _ _ _ fun i hi => ?_
  interval_cases i <;> simp [encode, Instr.row, txWord_getElem, offMsg]

theorem EncodingRow.push4 (b0 b1 b2 b3 : Byte) : EncodingRow.Statement (.push4 b0 b1 b2 b3) := by
  refine masked_eq _ _ _ fun i hi => ?_
  interval_cases i <;> simp [encode, Instr.row, txWord_getElem, offMsg]

theorem EncodingRow.setargLo (v : Word) : EncodingRow.Statement (.setargLo v) := by
  refine masked_eq _ _ _ fun i hi => ?_
  interval_cases i <;> simp [encode, Instr.row, txWord_getElem, offArgLo]

theorem EncodingRow.setargHi (v : Word) : EncodingRow.Statement (.setargHi v) := by
  refine masked_eq _ _ _ fun i hi => ?_
  interval_cases i <;> simp [encode, Instr.row, txWord_getElem, offArgHi]

end Sys2Proof.Laws
end

