-- ==== Sys2Proof/Laws/Tables.lean ====
section
/-! SUPPORT. The words of the round-constant table (40_tables.md R102). -/

namespace Sys2Proof.Machine

/-- Row `i` holds `K[8i] .. K[8i+7]` (R102). -/
theorem refK_getElem (t : Nat) (h : t < 64) : refK[t] = rowWord (refKRows[t / 8]'(by omega)) (t % 8) := by
  simp [refK]

end Sys2Proof.Machine
end

