-- ==== Sys2Proof/Tests/Slice0.lean ====
section
/-! SUPPORT. Tests. Expected values are those of spec/ (95_test_vectors.md and the examples of the rules) or written out by hand from the
encodings of 30_encoding.md R81 and R88; none is the model's own answer. A witness_ theorem shows operands and a state that meet all
hypotheses of the obligation it names. -/

namespace Sys2Proof.Machine

section

-- One theorem at a time: the kernel evaluations below are heavy when they all run at once.
set_option Elab.async false

/-! ### Helpers -/

/-- The state after one instruction; no instruction stops. -/
def ran (i : Instr) (s : State) : State :=
  match exec i s with
  | .next t => t
  | .fault r => nomatch r
  | .refused _ => s

/-- The state after one TX word performed next. -/
def sent (w : TxWord) (s : State) : State :=
  match step (placeFirst w s) with
  | .next t => t
  | .fault r => nomatch r
  | .refused _ => s

/-- The last response. -/
def answer (s : State) : Option Response := s.responses.getLast?

/-- A digest as a list of bytes. -/
def outBytes (s : State) : List Byte := s.out.toList

/-- A state in phase `p`, otherwise as after reset. -/
def inPhase (p : Phase) : State := { State.reset with phase := p }

/-- The reset state with the self-test passed. -/
def passed : State := { State.reset with st := .pass }

/-- The state after `n` bytes 0x61 of a message (95_test_vectors.md P8), `n` below 64. -/
def afterA (n : Fin 64) : State :=
  { State.reset with phase := .accum, buf := Vector.replicate 64 0x61, bufcnt := n, len := BitVec.ofNat 64 n.val }

/-- The state after the three bytes of `abc`. -/
def afterAbc : State :=
  { State.reset with
    phase := .accum, buf := ((Vector.replicate 64 0).set 0 0x61 |>.set 1 0x62 |>.set 2 0x63), bufcnt := 3, len := 3 }

/-- REF with another expected digest: not well formed (95_test_vectors.md P7). -/
def brokenCfg : Cfg := { refCfg with stDigest := ⟨#[0x56, 0x6c, 0x79, 0x9f, 0x62, 0x6f, 0xb9, 0x16, 0xdc, 0xdf, 0x90, 0x09, 0x73, 0x7a, 0x51, 0xc2, 0x1f, 0x8c, 0xd5, 0xb3, 0xaf, 0xb5, 0x45, 0x71, 0xb5, 0xec, 0x21, 0x64, 0xbf, 0xe6, 0x2d, 0xbc], rfl⟩ }

/-- The eight words as 32 bytes, twice: the pair input of 47_oneshot_pair.md R240 item 3. -/
def ivTwice : Block := ⟨(serBytes refIv ++ serBytes refIv).toArray, rfl⟩

/-! ### WellFormed: ill-formed terms are refused (30_encoding.md R88) -/

theorem test_wr1_at_msg_is_ill_formed : (Instr.wr1 0x10 0x61).wellFormed = false := by decide
theorem test_wr2_at_msg_is_ill_formed : (Instr.wr2 0x10 0x6161).wellFormed = false := by decide
theorem test_wr4_at_msg_is_ill_formed : (Instr.wr4 0x10 0).wellFormed = false := by decide
theorem test_wr4_at_argLo_is_ill_formed : (Instr.wr4 0x18 0).wellFormed = false := by decide
theorem test_wr4_at_argHi_is_ill_formed : (Instr.wr4 0x1C 0).wellFormed = false := by decide
theorem test_wr4_commands_are_ill_formed : ∀ k : Fin 5, (Instr.wr4 0x04 (BitVec.ofNat 32 (k.val + 1))).wellFormed = false := by decide
theorem test_other_terms_are_well_formed :
    (Instr.wr4 0x04 0).wellFormed = true ∧ (Instr.wr4 0x04 6).wellFormed = true ∧ (Instr.wr4 0x04 0x101).wellFormed = true ∧
    (Instr.wr1 0x11 0).wellFormed = true ∧ (Instr.wr2 0x12 0).wellFormed = true ∧ (Instr.wr4 0x34 0).wellFormed = true := by decide

/-! ### Decode: one word per constructor, field by field from R81 (KIND, SZ, RSV, OFF, DATA), and each malformed kind by name -/

theorem test_decode_rd1 :
    decode (0b00#2 ++ 0b00#2 ++ 0#12 ++ 0x0063#16 ++ 0#32) = .ok (.rd1 0x0063) ∧ decode 0x0000006300000000 = .ok (.rd1 0x0063) ∧ encode (.rd1 0x0063) = 0x0000006300000000 := by decide
theorem test_decode_rd2 :
    decode (0b00#2 ++ 0b01#2 ++ 0#12 ++ 0x0082#16 ++ 0#32) = .ok (.rd2 0x0082) ∧ decode 0x1000008200000000 = .ok (.rd2 0x0082) ∧ encode (.rd2 0x0082) = 0x1000008200000000 := by decide
theorem test_decode_rd4 :
    decode (0b00#2 ++ 0b10#2 ++ 0#12 ++ 0x0008#16 ++ 0#32) = .ok (.rd4 0x0008) ∧ decode 0x2000000800000000 = .ok (.rd4 0x0008) ∧ encode (.rd4 0x0008) = 0x2000000800000000 := by decide
theorem test_decode_wr1 :
    decode (0b01#2 ++ 0b00#2 ++ 0#12 ++ 0x0080#16 ++ 0x7F#32) = .ok (.wr1 0x0080 0x7F) ∧ decode 0x400000800000007F = .ok (.wr1 0x0080 0x7F) ∧ encode (.wr1 0x0080 0x7F) = 0x400000800000007F := by decide
theorem test_decode_wr2 :
    decode (0b01#2 ++ 0b01#2 ++ 0#12 ++ 0x0012#16 ++ 0x6162#32) = .ok (.wr2 0x0012 0x6162) ∧ decode 0x5000001200006162 = .ok (.wr2 0x0012 0x6162) ∧ encode (.wr2 0x0012 0x6162) = 0x5000001200006162 := by decide
theorem test_decode_wr4 :
    decode (0b01#2 ++ 0b10#2 ++ 0#12 ++ 0x0004#16 ++ 0x101#32) = .ok (.wr4 0x0004 0x00000101) ∧ decode 0x6000000400000101 = .ok (.wr4 0x0004 0x00000101) ∧ encode (.wr4 0x0004 0x00000101) = 0x6000000400000101 := by decide
theorem test_decode_rst :
    decode (0b10#2 ++ 0b00#2 ++ 0#12 ++ 0x0000#16 ++ 0#32) = .ok (.rst) ∧ decode 0x8000000000000000 = .ok (.rst) ∧ encode (.rst) = 0x8000000000000000 := by decide
theorem test_decode_cmdReset :
    decode (0b01#2 ++ 0b10#2 ++ 0#12 ++ 0x0004#16 ++ 1#32) = .ok (.cmdReset) ∧ decode 0x6000000400000001 = .ok (.cmdReset) ∧ encode (.cmdReset) = 0x6000000400000001 := by decide
theorem test_decode_cmdFinal :
    decode (0b01#2 ++ 0b10#2 ++ 0#12 ++ 0x0004#16 ++ 2#32) = .ok (.cmdFinal) ∧ decode 0x6000000400000002 = .ok (.cmdFinal) ∧ encode (.cmdFinal) = 0x6000000400000002 := by decide
theorem test_decode_cmdHash :
    decode (0b01#2 ++ 0b10#2 ++ 0#12 ++ 0x0004#16 ++ 3#32) = .ok (.cmdHash) ∧ decode 0x6000000400000003 = .ok (.cmdHash) ∧ encode (.cmdHash) = 0x6000000400000003 := by decide
theorem test_decode_cmdPair :
    decode (0b01#2 ++ 0b10#2 ++ 0#12 ++ 0x0004#16 ++ 4#32) = .ok (.cmdPair) ∧ decode 0x6000000400000004 = .ok (.cmdPair) ∧ encode (.cmdPair) = 0x6000000400000004 := by decide
theorem test_decode_cmdName :
    decode (0b01#2 ++ 0b10#2 ++ 0#12 ++ 0x0004#16 ++ 5#32) = .ok (.cmdName) ∧ decode 0x6000000400000005 = .ok (.cmdName) ∧ encode (.cmdName) = 0x6000000400000005 := by decide
theorem test_decode_push1 :
    decode (0b01#2 ++ 0b00#2 ++ 0#12 ++ 0x0010#16 ++ 0x63#32) = .ok (.push1 0x63) ∧ decode 0x4000001000000063 = .ok (.push1 0x63) ∧ encode (.push1 0x63) = 0x4000001000000063 := by decide
theorem test_decode_push2 :
    decode (0b01#2 ++ 0b01#2 ++ 0#12 ++ 0x0010#16 ++ 0x6261#32) = .ok (.push2 0x61 0x62) ∧ decode 0x5000001000006261 = .ok (.push2 0x61 0x62) ∧ encode (.push2 0x61 0x62) = 0x5000001000006261 := by decide
theorem test_decode_push4 :
    decode (0b01#2 ++ 0b10#2 ++ 0#12 ++ 0x0010#16 ++ 0x64636261#32) = .ok (.push4 0x61 0x62 0x63 0x64) ∧ decode 0x6000001064636261 = .ok (.push4 0x61 0x62 0x63 0x64) ∧ encode (.push4 0x61 0x62 0x63 0x64) = 0x6000001064636261 := by decide
theorem test_decode_setargLo :
    decode (0b01#2 ++ 0b10#2 ++ 0#12 ++ 0x0018#16 ++ 0x41#32) = .ok (.setargLo 0x41) ∧ decode 0x6000001800000041 = .ok (.setargLo 0x41) ∧ encode (.setargLo 0x41) = 0x6000001800000041 := by decide
theorem test_decode_setargHi :
    decode (0b01#2 ++ 0b10#2 ++ 0#12 ++ 0x001C#16 ++ 1#32) = .ok (.setargHi 1) ∧ decode 0x6000001c00000001 = .ok (.setargHi 1) ∧ encode (.setargHi 1) = 0x6000001c00000001 := by decide
theorem test_malformed_kind3 : decode 0xc000000000000000 = .error .kindReserved := by decide
theorem test_malformed_size3 : decode 0x3000000800000000 = .error .sizeReserved := by decide
theorem test_malformed_rsv : decode 0x2001000800000000 = .error .rsvNotZero := by decide
theorem test_malformed_readData : decode 0x2000000800000001 = .error .readWithData := by decide
theorem test_malformed_wr1Wide : decode 0x4000001000000161 = .error .dataTooWide := by decide
theorem test_malformed_wr2Wide : decode 0x5000001000010000 = .error .dataTooWide := by decide
theorem test_malformed_rstBits : decode 0x8000000000000001 = .error .rstNotBare := by decide
theorem test_malformed_rstOff : decode 0xA000000000000000 = .error .rstNotBare := by decide

/-- The host's two questions on one word: what the decoder reads, and what the next step runs. -/
theorem test_tableWord_and_fetch :
    decodeTableWord 64 0x6000000400000003 = some .cmdHash ∧
    (State.reset.withFetchWord 64 0x6000000400000003).inbox = [0x6000000400000003] ∧
    sent 0x6000001800000041 State.reset = ran (.setargLo 0x41) State.reset := by decide +kernel

/-! ### The operations, on the vectors of 95_test_vectors.md sections 3 to 8 and of the rules' examples -/

theorem test_word_functions :
    refSsig0 0x12345678 = 0xe7fce6ee ∧ refSsig1 0x12345678 = 0xa1f78649 ∧ refBsig0 0x12345678 = 0x66146474 ∧
    refBsig1 0x12345678 = 0x3561abda ∧ refCh 0xf0f0f0f0 0xaaaaaaaa 0x55555555 = 0xa5a5a5a5 ∧
    refMaj 0xf0f0f0f0 0xaaaaaaaa 0x55555555 = 0xf0f0f0f0 ∧ rotr 1 1 = 0x80000000 ∧ rotr 0x80000001 31 = 3 := by decide

theorem test_padding :
    pad [0x61, 0x61, 0x61] = [0x61, 0x61, 0x61, 0x80] ++ List.replicate 52 0 ++ [0, 0, 0, 0, 0, 0, 0, 0x18] ∧
    (pad (List.replicate 55 0x61)).length = 64 ∧ (pad (List.replicate 56 0x61)).length = 128 ∧
    bitlen (2 ^ 61 + 3) = 0x18 ∧ bitlen (2 ^ 61 - 1) = 0xfffffffffffffff8 := by decide +kernel

theorem test_schedule_abc :
    let w := schedule refCfg (blockAt (pad [0x61, 0x62, 0x63]) 0)
    w[0] = 0x61626380 ∧ w[15] = 0x18 ∧ w[16] = 0x61626380 ∧ w[17] = 0x000f0000 ∧ w[18] = 0x7da86405 ∧ w[31] = 0xd3b7973b ∧
    w[63] = 0x12b1edeb := by decide +kernel

/-- The first 64 primes, by trial division (18 * 18 > 311). -/
def firstPrimes : List Nat :=
  (List.range 312).filter fun n => decide (2 ≤ n) && (List.range 18).all fun d => decide (d < 2) || d == n || n % d != 0

/-- `w` is the first 32 bits of the fractional part of the `n`-th root of `p`: with `m` the integer part, `m * 2^32 + w` is the integer
root of `p * 2^(32 * n)`. -/
def isRootFraction (n p : Nat) (w : Word) : Bool :=
  let m := ((List.range 20).filter fun k => decide (k ^ n ≤ p)).length - 1
  let x := m * 2 ^ 32 + w.toNat
  decide (x ^ n ≤ p * 2 ^ (32 * n)) && decide (p * 2 ^ (32 * n) < (x + 1) ^ n)

/-- The words of `K` are what R102 says they are, the cube roots of the first 64 primes, each in its place (R108). -/
theorem test_K_is_cube_roots : ∀ t : Fin 64, isRootFraction 3 (firstPrimes.getD t.val 0) refK[t] = true := by decide +kernel

/-- The words of `IV` are the square roots of the first eight primes (R101, R108). -/
theorem test_IV_is_square_roots : ∀ i : Fin 8, isRootFraction 2 (firstPrimes.getD i.val 0) (word8 refIv i) = true := by decide +kernel

/-- A word of the table as the spec prints it, at each end of a row (R102). -/
theorem test_K_words :
    refK[0] = 0x428a2f98 ∧ refK[7] = 0xab1c5ed5 ∧ refK[8] = 0xd807aa98 ∧ refK[63] = 0xc67178f2 := by decide

theorem test_mixStep : mixStep refCfg ⟨0x6a09e667, 0xbb67ae85, 0x3c6ef372, 0xa54ff53a, 0x510e527f, 0x9b05688c, 0x1f83d9ab, 0x5be0cd19⟩ 0x428a2f98 0x61626380 0 =
    ⟨0x5d6aebcd, 0x6a09e667, 0xbb67ae85, 0x3c6ef372, 0xfa2a4622, 0x510e527f, 0x9b05688c, 0x1f83d9ab⟩ := by decide

theorem test_xmix : refXmix ⟨0x00000001, 0x00000002, 0x00000003, 0x00000004, 0x00000005, 0x00000006, 0x00000007, 0x00000008⟩ = ⟨0x04000004, 0x00000002, 0x04800007, 0x00000004, 0x0030000c, 0x00000006, 0x00340013, 0x00000008⟩ ∧
    refXmix refIv = ⟨0xa1222296, 0xbb67ae85, 0x42e57eda, 0xa54ff53a, 0xacf553ff, 0x9b05688c, 0xe9fdd7ba, 0x5be0cd19⟩ ∧
    refXmix ⟨0xffffffff, 0xffffffff, 0xffffffff, 0xffffffff, 0xffffffff, 0xffffffff, 0xffffffff, 0xffffffff⟩ = ⟨0xffffffff, 0xffffffff, 0xffffffff, 0xffffffff, 0xffffffff, 0xffffffff, 0xffffffff, 0xffffffff⟩ := by decide

theorem test_npred : refNpred 0x80 0 = false ∧ refNpred 0x61 2 = true ∧ refNpred 0x61 3 = false ∧ refNpred 0xff 64 = false ∧
    refNpred 0x80 64 = true ∧ refNpred 0x61 65 = true ∧ refNpred 0 0 = true := by decide

theorem test_neural_zeros : refNeural ⟨0x00000000, 0x00000000, 0x00000000, 0x00000000, 0x00000000, 0x00000000, 0x00000000, 0x00000000⟩ refK =
    ⟨0x5249f520, 0x00000000, 0x07de20aa, 0x00000000, 0xd633fd32, 0x00000000, 0x21ab4f4e, 0x00000000⟩ := by decide +kernel
theorem test_neural_ones : refNeural ⟨0xffffffff, 0xffffffff, 0xffffffff, 0xffffffff, 0xffffffff, 0xffffffff, 0xffffffff, 0xffffffff⟩ refK =
    ⟨0x748f82ee, 0xffffffff, 0xfd1d7743, 0xffffffff, 0xcd2fb407, 0xffffffff, 0x35ecda5d, 0xffffffff⟩ := by decide +kernel
theorem test_neural_iv : refNeural ⟨0x6a09e667, 0xbb67ae85, 0x3c6ef372, 0xa54ff53a, 0x510e527f, 0x9b05688c, 0x1f83d9ab, 0x5be0cd19⟩ refK =
    ⟨0x68291613, 0xbb67ae85, 0x3ba51163, 0xa54ff53a, 0xa9590697, 0x9b05688c, 0xba52fc8f, 0x5be0cd19⟩ := by decide +kernel
theorem test_neural_small : refNeural ⟨0x00000001, 0x00000002, 0x00000003, 0x00000004, 0x00000005, 0x00000006, 0x00000007, 0x00000008⟩ refK =
    ⟨0x5249f52c, 0x00000002, 0x07de20a6, 0x00000004, 0xd633fd3b, 0x00000006, 0x21ab4f40, 0x00000008⟩ := by decide +kernel

theorem test_quantum_zeros : refQstage ⟨0x00000000, 0x00000000, 0x00000000, 0x00000000, 0x00000000, 0x00000000, 0x00000000, 0x00000000⟩ =
    ⟨0x40000000, 0xc0000000, 0x80000000, 0xc0000000, 0x80000000⟩ := by decide +kernel
theorem test_quantum_half0 : refQstage ⟨0x80000000, 0x00000000, 0x00000000, 0x00000000, 0x00000000, 0x00000000, 0x00000000, 0x00000000⟩ =
    ⟨0x7d70a3d7, 0xd9999999, 0x80000000, 0x73333333, 0x80000000⟩ := by decide +kernel
theorem test_quantum_half2 : refQstage ⟨0x00000000, 0x00000000, 0x80000000, 0x00000000, 0x00000000, 0x00000000, 0x00000000, 0x00000000⟩ =
    ⟨0x7d70a3d7, 0xd9999999, 0x80000000, 0xd9999999, 0x80000000⟩ := by decide +kernel
theorem test_quantum_small : refQstage ⟨0x00000001, 0x00000002, 0x00000003, 0x00000004, 0x00000005, 0x00000006, 0x00000007, 0x00000008⟩ =
    ⟨0x40000008, 0xc0000003, 0x80000008, 0xbfffffff, 0x80000003⟩ := by decide +kernel
theorem test_quantum_max0 : refQstage ⟨0xffffffff, 0x00000000, 0x00000000, 0x00000000, 0x00000000, 0x00000000, 0x00000000, 0x00000000⟩ =
    ⟨0x40000000, 0xc0000000, 0x80000000, 0x40000000, 0x80000000⟩ := by decide +kernel
theorem test_quantum_max4 : refQstage ⟨0xffffffff, 0xffffffff, 0xffffffff, 0xffffffff, 0x00000000, 0x00000000, 0x00000000, 0x00000000⟩ =
    ⟨0x40000001, 0x3fffffff, 0x80000000, 0x40000000, 0x80000000⟩ := by decide +kernel
theorem test_quantum_iv : refQstage ⟨0x6a09e667, 0xbb67ae85, 0x3c6ef372, 0xa54ff53a, 0x510e527f, 0x9b05688c, 0x1f83d9ab, 0x5be0cd19⟩ =
    ⟨0xaeee4c36, 0x662dc4ad, 0xe69c3198, 0x89454889, 0xa34c9eff⟩ := by decide +kernel

/-- 43_compression.md R155, and the block of `ab` with the neural stage active (95_test_vectors.md section 7). -/
theorem test_compress_empty : compress refCfg refIv 0 (blockAt (pad []) 0) 0 =
    ⟨⟨0xac758756, 0xca2681d1, 0xca7f2259, 0xf7712dfe, 0xdd7df6b6, 0x46437317, 0x01f0edd6, 0xbc870186⟩, 0x1121fb3a, false⟩ := by decide +kernel
theorem test_compress_ab : compress refCfg refIv 0 (blockAt (pad [0x61, 0x62]) 0) 2 =
    ⟨⟨0xcb1e8cb0, 0x379e2f72, 0x81ca0043, 0xe1e34dfd, 0x89000c43, 0xd82823ce, 0xfa767489, 0x9d0b2b2c⟩, 0x35a0670a, true⟩ := by decide +kernel

/-! ### One step of each instruction -/

/-- P4 row 10. -/
theorem test_rd1_name : answer (ran (.rd1 0x80) passed) = some ⟨true, 0x4e⟩ := by decide +kernel
/-- Section 11: a byte read of a 32-bit register. -/
theorem test_rd1_status_refused : answer (ran (.rd1 0x08) passed) = some ⟨false, 0⟩ ∧ (ran (.rd1 0x08) passed).err = 4 := by decide +kernel
/-- P4 row 11. -/
theorem test_rd2_name : answer (ran (.rd2 0x82) passed) = some ⟨true, 0x2d43⟩ := by decide +kernel
/-- P5 row 17. -/
theorem test_rd2_misaligned : answer (ran (.rd2 0x61) passed) = some ⟨false, 0⟩ := by decide +kernel
/-- P8 row 19 and P1's `STATUS` with three bytes. -/
theorem test_rd4_status : answer (ran (.rd4 0x08) (afterA 63)) = some ⟨true, 0x3f01⟩ ∧
    answer (ran (.rd4 0x08) afterAbc) = some ⟨true, 0x0301⟩ := by decide +kernel
/-- P4 rows 6 to 8. -/
theorem test_rd4_name : answer (ran (.rd4 0x80) passed) = some ⟨true, 0x2d434c4e⟩ ∧
    answer (ran (.rd4 0x84) passed) = some ⟨true, 0x2d464552⟩ ∧ answer (ran (.rd4 0x80) State.reset) = some ⟨true, 0⟩ := by
  decide +kernel
theorem test_wr1_refused : answer (ran (.wr1 0x11 0x61) State.reset) = some ⟨false, 0⟩ ∧
    (ran (.wr1 0x11 0x61) State.reset).len = 0 := by decide +kernel
/-- P5 row 18. -/
theorem test_wr2_refused : answer (ran (.wr2 0x12 0x6161) State.reset) = some ⟨false, 0⟩ := by decide +kernel
/-- P5 rows 10 and 15. -/
theorem test_wr4_cmd_0x101 : answer (ran (.wr4 0x04 0x101) afterAbc) = some ⟨true, 0⟩ ∧ (ran (.wr4 0x04 0x101) afterAbc).err = 2 ∧
    (ran (.wr4 0x04 0x101) afterAbc).phase = .accum := by decide +kernel
theorem test_wr4_id_refused : answer (ran (.wr4 0 0) State.reset) = some ⟨false, 0⟩ := by decide +kernel
/-- P7 rows 13 to 15. -/
theorem test_rst_leaves_fatal :
    let t := ran .rst { inPhase .fatal with st := .fail, err := 0xb }
    t.phase = .fresh ∧ t.st = .notRun ∧ t.err = 0 := by decide
/-- The example of 46_streaming.md R210; `ERR` stays (P5 row 32). -/
theorem test_cmdReset :
    let t := ran .cmdReset { afterAbc with err := 7 }
    statusWord t = 0 ∧ t.len = 0 ∧ t.h = refIv ∧ t.err = 7 := by decide +kernel
/-- The example of 46_streaming.md R211. -/
theorem test_cmdFinal_empty :
    let t := ran .cmdFinal State.reset
    outBytes t = [0xac, 0x75, 0x87, 0x56, 0xca, 0x26, 0x81, 0xd1, 0xca, 0x7f, 0x22, 0x59, 0xf7, 0x71, 0x2d, 0xfe, 0xdd, 0x7d, 0xf6, 0xb6, 0x46, 0x43, 0x73, 0x17, 0x01, 0xf0, 0xed, 0xd6, 0xbc, 0x87, 0x01, 0x86] ∧
    statusWord t = 0x0a ∧ t.qmix = 0x1121fb3a ∧ t.len = 0 := by decide +kernel
/-- Two padding blocks: 63 bytes (95_test_vectors.md section 8). -/
theorem test_cmdFinal_two_blocks :
    outBytes (ran .cmdFinal (afterA 63)) =
    [0xc2, 0x81, 0xb5, 0xed, 0x0a, 0x12, 0x7b, 0x80, 0x52, 0x62, 0x37, 0xbb, 0x48, 0x0c, 0x98, 0x3c, 0x24, 0x22, 0xcf, 0xbe, 0x29, 0x36, 0x7d, 0x6e, 0xf9, 0x87, 0x57, 0xba, 0x8a, 0x85, 0x21, 0xc4] := by decide +kernel
/-- P9 rows 4 and 5. -/
theorem test_cmdHash_empty :
    let t := ran .cmdHash State.reset
    statusWord t = 0x0a ∧ t.rem = 0 ∧ t.len = 0 := by decide +kernel
/-- P9 rows 17 to 20. -/
theorem test_cmdHash_long :
    let t := ran .cmdHash { inPhase .finalized with arg := 0x100000000 }
    statusWord t = 3 ∧ t.rem = 0x100000000 := by decide +kernel
/-- P3 row 5 and P9 rows 8 to 10. -/
theorem test_cmdPair : statusWord (ran .cmdPair { State.reset with arg := 2 }) = 4 ∧
    statusWord (ran .cmdPair { inPhase .finalized with dvalid := true }) = 2 := by decide +kernel
/-- P4 rows 3 to 5 and 12. -/
theorem test_cmdName :
    let t := ran .cmdName State.reset
    statusWord t = 0x10 ∧ t.err = 0 ∧ outBytes t =
    [0xd9, 0xba, 0xa0, 0x1b, 0x7c, 0x64, 0x67, 0x20, 0x44, 0x16, 0x6b, 0xe2, 0x3c, 0x1e, 0xb8, 0x30, 0x3c, 0x29, 0xdf, 0xc9, 0x78, 0xeb, 0xa5, 0x3b, 0xc5, 0x93, 0xd2, 0x9b, 0x3a, 0xc7, 0xfc, 0xd3] := by decide +kernel
/-- P7 rows 2 to 4 and 12: a configuration that is not well formed. -/
theorem test_cmdName_fails :
    let t := runCommand brokenCfg .name State.reset
    statusWord t = 0x27 ∧ t.err = 8 ∧ outBytes t =
    [0xd9, 0xba, 0xa0, 0x1b, 0x7c, 0x64, 0x67, 0x20, 0x44, 0x16, 0x6b, 0xe2, 0x3c, 0x1e, 0xb8, 0x30, 0x3c, 0x29, 0xdf, 0xc9, 0x78, 0xeb, 0xa5, 0x3b, 0xc5, 0x93, 0xd2, 0x9b, 0x3a, 0xc7, 0xfc, 0xd3] := by decide +kernel
/-- P8 rows 20 to 24: the byte that fills a block. -/
theorem test_push1_fills_block :
    let t := ran (.push1 0x61) (afterA 63)
    t.h = ⟨0x703b7c5f, 0xaf1c762f, 0x978e13d4, 0x4fb93578, 0xf1d82cf8, 0xd2661289, 0x55ea9d52, 0x54e5049d⟩ ∧
    t.qmix = 0x111899e1 ∧ t.len = 64 ∧ statusWord t = 1 := by decide +kernel
/-- P2 rows 26 to 31: the last announced byte. -/
theorem test_push1_last_of_oneshot :
    let t := ran (.push1 0x61) { inPhase .oneshot with
      h := ⟨0x703b7c5f, 0xaf1c762f, 0x978e13d4, 0x4fb93578, 0xf1d82cf8, 0xd2661289, 0x55ea9d52, 0x54e5049d⟩, qmix := 0x111899e1, len := 64, rem := 1 }
    statusWord t = 0x400a ∧ t.rem = 0 ∧ t.len = 65 ∧ outBytes t =
    [0xd1, 0x28, 0x73, 0xc9, 0x37, 0x04, 0xe1, 0xa4, 0x63, 0x1b, 0x1a, 0xcf, 0xef, 0xd6, 0x2c, 0xad, 0x49, 0x01, 0x04, 0x93, 0xed, 0x1f, 0x06, 0x85, 0x4e, 0x11, 0xff, 0xd2, 0x4f, 0x87, 0xd1, 0xd1] := by decide +kernel
/-- P1 rows 2 to 5: `61` is pushed before `62`. -/
theorem test_push2 :
    let t := ran (.push2 0x61 0x62) State.reset
    t.buf[0] = 0x61 ∧ t.buf[1] = 0x62 ∧ t.len = 2 ∧ statusWord t = 0x201 := by decide +kernel
/-- P6 rows 17 to 21: four bytes where two were announced. -/
theorem test_push4_over_the_end :
    let t := ran (.push4 0x61 0x62 0x63 0x64) { inPhase .oneshot with rem := 2 }
    statusWord t = 0x400a ∧ t.err = 1 ∧ t.len = 2 ∧ outBytes t =
    [0xcb, 0x1e, 0x8c, 0xb0, 0x37, 0x9e, 0x2f, 0x72, 0x81, 0xca, 0x00, 0x43, 0xe1, 0xe3, 0x4d, 0xfd, 0x89, 0x00, 0x0c, 0x43, 0xd8, 0x28, 0x23, 0xce, 0xfa, 0x76, 0x74, 0x89, 0x9d, 0x0b, 0x2b, 0x2c] := by decide +kernel
/-- P3 rows 21 to 27: the last four bytes of a pair input. -/
theorem test_push4_pair :
    let t := ran (.push4 0x5b 0xe0 0xcd 0x19) { inPhase .pair with buf := ivTwice, bufcnt := 60, len := 60, rem := 2 }
    statusWord t = 0x0c ∧ t.rem = 1 ∧ t.h = refIv ∧ t.len = 0 ∧ outBytes t =
    [0x3f, 0xe7, 0x3d, 0x8d, 0x60, 0xfc, 0x71, 0x9f, 0xcb, 0xc7, 0x5c, 0xb9, 0x15, 0xde, 0xaa, 0x3e, 0xfb, 0xe4, 0x75, 0xc7, 0xf6, 0x8a, 0x3d, 0x43, 0x9f, 0xe9, 0x94, 0x8c, 0xaa, 0xbd, 0x75, 0x6b] := by decide +kernel
/-- P9 rows 14 to 16. -/
theorem test_setarg : (ran (.setargHi 1) State.reset).arg = 0x100000000 ∧
    (ran (.setargLo 0x41) { State.reset with arg := 0x5FFFFFFFF }).arg = 0x500000041 := by decide
/-- P5 row 27: a malformed RST does not reset. -/
theorem test_malformed_rst_does_not_reset :
    let t := sent 0x8000000000000001 afterAbc
    t.phase = .accum ∧ t.len = 3 ∧ t.err = 4 ∧ answer t = some ⟨false, 0⟩ := by decide +kernel
/-- The expansion of a PUSH of seven bytes (30_encoding.md R90). -/
theorem test_pushRows : pushRows [1, 2, 3, 4, 5, 6, 7] = [.push4 1 2 3 4, .push2 5 6, .push1 7] := by decide
/-- 70_reset_and_hazards.md R300: with nothing to do the core does nothing. -/
theorem test_idle : step State.reset = .next State.reset := rfl

/-! ### Witnesses: the hypotheses of each obligation can be met -/

/-- A state in the data phase of PAIR at the start of an input. -/
def pairStart : State := { inPhase .pair with rem := 1 }

/-- The states used below meet 10_state.md R36. -/
theorem witness_invariant : Inv cfg State.reset ∧ Inv cfg pairStart := by
  refine ⟨⟨?_, ?_, ?_, ?_, ?_, ?_, ?_, ?_⟩, ⟨?_, ?_, ?_, ?_, ?_, ?_, ?_, ?_⟩⟩ <;>
    simp [State.reset, State.resetOf, pairStart, inPhase]

theorem witness_EncodeThenDecodeIsIdentity :
    (Instr.wr1 0xFFFF 0xFF).wellFormed = true ∧ (Instr.wr2 0 0xFFFF).wellFormed = true ∧
    (Instr.wr4 0x04 0).wellFormed = true ∧ (Instr.push4 1 2 3 4).wellFormed = true := by decide

/-- Also for DecodedWordHasItsRowsFixedBits and PlacedWordIsPerformedNext. -/
theorem witness_DecodedInstructionReencodesToItsWord :
    decode 0x2000FFFF00000000 = .ok (.rd4 0xFFFF) ∧ decode 0x60000004FFFFFFFF = .ok (.wr4 0x04 0xFFFFFFFF) := by decide

/-- One word for each clause of R83. -/
theorem witness_MalformedWordsAreRefusedOnTheBus :
    malformedWord 0xC000000000000000 ∧ malformedWord 0x3000000000000000 ∧ malformedWord 0x7000000000000000 ∧
    malformedWord 0x0001000000000000 ∧ malformedWord 0x8800000000000000 ∧ malformedWord 0x0000000000000001 ∧
    malformedWord 0x4000000000000100 ∧ malformedWord 0x5000000000010000 ∧ malformedWord 0x8000000100000000 ∧
    (placeFirst 0xC000000000000000 State.reset).inbox = 0xC000000000000000 :: [] := by
  refine ⟨?_, ?_, ?_, ?_, ?_, ?_, ?_, ?_, ?_, rfl⟩ <;> unfold malformedWord <;> decide

/-- Also for the second clause of RefinementRowsAreTheirBaseRows. -/
theorem witness_StepPerformsTheNextTransaction :
    (placeFirst 0x8000000000000000 State.reset).inbox = 0x8000000000000000 :: [] ∧
    decode 0x8000000000000000 = .ok .rst ∧ State.reset.inbox = [] := by decide

/-- An admitted read, a write, and an error response. -/
theorem witness_EveryTransactionYieldsOneResponse :
    (∃ t, exec (.rd4 0) State.reset = .next t) ∧
    (∃ t, exec .cmdReset State.reset = .next t ∧ ∀ off, Instr.cmdReset ≠ .rd1 off ∧ Instr.cmdReset ≠ .rd2 off ∧
      Instr.cmdReset ≠ .rd4 off) ∧
    exec (.rd4 0x34) State.reset = .next (busError State.reset) := by
  refine ⟨⟨_, rfl⟩, ⟨_, rfl, ?_⟩, rfl⟩
  simp

/-- Every bit of `ERR` set, ST not NOTRUN, FATAL. -/
theorem witness_OnlyRstClearsTheStickyRecords :
    (∃ t, Instr.cmdReset ≠ .rst ∧ exec .cmdReset { inPhase .fatal with st := .fail, err := 0xF } = .next t) ∧
    (∀ k : Fin 4, (0xF : BitVec 4).getLsbD k.val = true) ∧ SelfTest.fail ≠ .notRun ∧ (inPhase .fatal).phase = .fatal := by
  refine ⟨⟨_, by simp, rfl⟩, by decide, by decide, rfl⟩

/-- The offsets of the last clause of the STATUS, ERR and ID statements, at their ends. -/
theorem witness_register_offsets :
    ((0x08 : Offset) ≤ 0x08 ∧ (0x08 : Offset) < 0x0C) ∧ ((0x08 : Offset) ≤ 0x0B ∧ (0x0B : Offset) < 0x0C) ∧
    ((0x0C : Offset) ≤ 0x0C ∧ (0x0C : Offset) < 0x10) ∧ ((0x0C : Offset) ≤ 0x0F ∧ (0x0F : Offset) < 0x10) ∧
    (0x00 : Offset) < 0x04 ∧ (0x03 : Offset) < 0x04 := by decide

/-- The window open and closed, and the write clause at its ends. -/
theorem witness_NameWindowIsGatedBySelfTest :
    (∃ nameAt : Fin 16 → Byte, ∀ i, nameAt i = if passed.st = .pass then refCfg.implName[i] else 0) ∧
    (∃ nameAt : Fin 16 → Byte, ∀ i, nameAt i = if State.reset.st = .pass then refCfg.implName[i] else 0) ∧
    ((0x80 : Offset) ≤ 0x80 ∧ (0x80 : Offset) < 0x90) ∧ ((0x80 : Offset) ≤ 0x8F ∧ (0x8F : Offset) < 0x90) :=
  ⟨⟨_, fun _ => rfl⟩, ⟨_, fun _ => rfl⟩, by decide, by decide⟩

/-- The ends of each range of AdmissionFollowsTheRegisterMap, inside and just outside. -/
theorem witness_AdmissionFollowsTheRegisterMap :
    (admitted .read .one 0x60).isSome ∧ (admitted .read .one 0x8F).isSome ∧ admitted .read .one 0x5F = none ∧
    admitted .read .one 0x90 = none ∧ (admitted .read .two 0x8E).isSome ∧ admitted .read .two 0x8F = none ∧
    (admitted .read .four 0x30).isSome ∧ admitted .read .four 0x34 = none ∧ admitted .read .four 0x3C = none ∧
    (admitted .read .four 0x40).isSome ∧ (admitted .read .four 0x8C).isSome ∧ admitted .read .four 0x90 = none ∧
    admitted .read .four 0x04 = none ∧ admitted .read .four 0x10 = none ∧ admitted .read .four 0x14 = none ∧
    admitted .write .one 0x10 = some .msg ∧ admitted .write .one 0x11 = none ∧ admitted .write .two 0x12 = none ∧
    admitted .write .four 0x1C = some .argHi ∧ admitted .write .four 0x20 = none := by decide +kernel

/-- Each clause at the last fill count it covers, in FRESH and in ACCUM. -/
theorem witness_PushBelowABlockStoresTheBytes :
    ((afterA 62).phase = .accum ∧ (afterA 62).bufcnt.val < 63) ∧ ((afterA 61).phase = .accum ∧ (afterA 61).bufcnt.val < 62) ∧
    ((afterA 59).phase = .accum ∧ (afterA 59).bufcnt.val < 60) ∧ (State.reset.phase = .fresh ∧ State.reset.bufcnt.val < 60) :=
  ⟨⟨rfl, by decide⟩, ⟨rfl, by decide⟩, ⟨rfl, by decide⟩, ⟨rfl, by decide⟩⟩

theorem witness_PushOfThe64thByteCompresses : (afterA 63).phase = .accum ∧ (afterA 63).bufcnt = 63 := ⟨rfl, rfl⟩

/-- Two bytes still announced, and one. -/
theorem witness_OneShotPushCountsDownAndFinalizes :
    ({ inPhase .oneshot with rem := 2 } : State).phase = .oneshot ∧ 1 < ({ inPhase .oneshot with rem := 2 } : State).rem.toNat ∧
    ({ inPhase .oneshot with rem := 1 } : State).rem = 1 := by decide

/-- The 63rd and the 64th byte of an input. -/
theorem witness_PairPushStoresAndEmits :
    ({ pairStart with bufcnt := 62 } : State).phase = .pair ∧ ({ pairStart with bufcnt := 62 } : State).bufcnt.val < 63 ∧
    ({ pairStart with bufcnt := 63, len := 63 } : State).bufcnt = 63 ∧ pairStart.h = cfg.iv ∧ pairStart.qmix = 0 ∧
    ({ pairStart with bufcnt := 63, len := 63 } : State).len = 63 :=
  ⟨rfl, by decide, rfl, rfl, rfl, rfl⟩

/-- Each phase that the clauses of PushAfterTheEndIsRefused, CommandsOutOfPhaseAreRefused and ResetCommandRestoresTheInitialState
name. -/
theorem witness_phases :
    (inPhase .finalized).phase = .finalized ∧ (inPhase .fatal).phase = .fatal ∧
    ((inPhase .finalized).phase ≠ .fresh ∧ (inPhase .finalized).phase ≠ .accum) ∧
    ((inPhase .accum).phase ≠ .fresh ∧ (inPhase .accum).phase ≠ .finalized) ∧ (inPhase .pair).phase ≠ .fatal := by decide

theorem witness_NonCommandWordsAreIllegal :
    ((0 : Word) ≠ 1 ∧ (0 : Word) ≠ 2 ∧ (0 : Word) ≠ 3 ∧ (0 : Word) ≠ 4 ∧ (0 : Word) ≠ 5) ∧
    ((0x101 : Word) ≠ 1 ∧ (0x101 : Word) ≠ 2 ∧ (0x101 : Word) ≠ 3 ∧ (0x101 : Word) ≠ 4 ∧ (0x101 : Word) ≠ 5) := by decide

/-- The last fill count for one padded block and the first for two. -/
theorem witness_FinalCommandPadsAndSerialises :
    ((afterA 55).phase = .accum ∧ (afterA 55).bufcnt.val ≤ 55) ∧ ((afterA 56).phase = .accum ∧ 56 ≤ (afterA 56).bufcnt.val) :=
  ⟨⟨rfl, by decide⟩, ⟨rfl, by decide⟩⟩

/-- Also for PairCommandStartsOrFinishes: a length announced, and none. -/
theorem witness_HashCommandStartsOrFinishes :
    ({ State.reset with arg := 1 } : State).phase = .fresh ∧ ({ State.reset with arg := 1 } : State).arg ≠ 0 ∧
    (inPhase .finalized).phase = .finalized ∧ (inPhase .finalized).arg = 0 := by decide

/-- A well-formed configuration and one that is not. -/
theorem witness_NameCommandRunsTheSelfTest :
    State.reset.phase = .fresh ∧ wellFormedCfg refCfg ∧ ¬ wellFormedCfg brokenCfg := by
  unfold wellFormedCfg
  decide +kernel

/-- Also for the step clause: the reset state with nothing to perform takes a step. -/
theorem witness_EveryStepKeepsTheInvariant : Inv cfg State.reset ∧ ∃ t, step State.reset = .next t :=
  ⟨witness_invariant.1, ⟨_, rfl⟩⟩

/-- The premises of the last clauses: a read, an error response, a word that is no command; and `REM` of 2 and of 1. -/
theorem witness_PhaseFollowsTheTransitionTable :
    (∃ t, exec (.rd1 0x60) State.reset = .next t) ∧ (∃ t, exec (.setargLo 0) State.reset = .next t) ∧
    (∃ t, exec (.rd4 0x34) State.reset = .next t ∧ t.responses = State.reset.responses ++ [⟨false, 0⟩]) ∧
    commandOf 0 = none ∧ (∃ t, exec (.wr4 0x04 0) State.reset = .next t) ∧
    1 < ({ inPhase .oneshot with rem := 2 } : State).rem.toNat ∧ ({ inPhase .oneshot with rem := 1 } : State).rem = 1 :=
  ⟨⟨_, rfl⟩, ⟨_, rfl⟩, ⟨_, rfl, rfl⟩, by decide, ⟨_, rfl⟩, by decide, rfl⟩

theorem witness_FatalIsLeftOnlyByRst :
    (inPhase .fatal).phase = .fatal ∧ Instr.cmdReset ≠ .rst ∧ ({ inPhase .fatal with st := .fail } : State).st = .fail := by decide

theorem witness_OneErrorKindPerTransaction :
    (∃ t, exec .cmdFinal (inPhase .fatal) = .next t) ∧ ∃ t, exec .rst (inPhase .fatal) = .next t := ⟨⟨_, rfl⟩, ⟨_, rfl⟩⟩

/-- A message of one byte, and the empty one. -/
theorem witness_StreamingGivesNlcHash :
    Inv cfg State.reset ∧ State.reset.phase = .fresh ∧ (∀ i ∈ [Instr.push1 0x61], isPush i = true) ∧
    (messageOf [.push1 0x61]).length < 2 ^ 64 ∧ (∀ i ∈ ([] : List Instr), isPush i = true) ∧ ([] : List Byte).length < 2 ^ 64 :=
  ⟨witness_invariant.1, rfl, by decide, by decide, by decide, by decide⟩

theorem witness_OneShotGivesNlcHash :
    ({ State.reset with arg := 3 } : State).phase = .fresh ∧ (∀ i ∈ [Instr.push2 0x61 0x62, .push1 0x63], isPush i = true) ∧
    ({ State.reset with arg := 3 } : State).arg.toNat = (messageOf [.push2 0x61 0x62, .push1 0x63]).length := by decide

theorem witness_PairGivesPairTForEachInput :
    Inv cfg pairStart ∧ pairStart.phase = .pair ∧ pairStart.bufcnt = 0 ∧
    (∀ i ∈ List.replicate 16 (Instr.push4 1 2 3 4), isPush i = true) ∧
    (messageOf (List.replicate 16 (.push4 1 2 3 4))).length = 64 :=
  ⟨witness_invariant.2, rfl, rfl, by decide, by decide⟩

theorem witness_GroupingOfBytesDoesNotMatter :
    (∀ i ∈ [Instr.push2 0x61 0x62], isPush i = true) ∧ (∀ i ∈ [Instr.push1 0x61, .push1 0x62], isPush i = true) ∧
    messageOf [.push2 0x61 0x62] = messageOf [.push1 0x61, .push1 0x62] := by decide

theorem witness_PseudoInstructionsExpandToRows : passed.st = .pass ∧ State.reset.st ≠ .pass := by decide

theorem witness_ResetForgetsTheEarlierMessage :
    (afterA 5).phase ≠ .fatal ∧ (∀ i ∈ [Instr.push1 0x61, .cmdFinal], isPush i = true ∨ i = .cmdFinal) := by decide

/-- Two states that differ in a stale byte. -/
theorem witness_StaleBytesInfluenceNothing :
    sameUpToStale (afterA 5) { afterA 5 with buf := (afterA 5).buf.set 63 0xFF } ∧
    ({ afterA 5 with buf := (afterA 5).buf.set 63 0xFF } : State).buf ≠ (afterA 5).buf := by
  refine ⟨⟨rfl, ?_⟩, by decide⟩
  intro i hi
  revert hi
  revert i
  decide

/-- One byte announced and pushed; the digest is ready. -/
theorem witness_DigestReadyMeansDigestOfThePushedBytes :
    ({ State.reset with arg := 1 } : State).phase = .fresh ∧ ({ State.reset with arg := 1 } : State).err.getLsbD 0 = false ∧
    (∀ i ∈ [Instr.push1 0x61], isPush i = true) ∧
    ∃ t, runInstrs [.cmdHash, .push1 0x61] { State.reset with arg := 1 } = .next t :=
  ⟨rfl, rfl, by decide, ⟨_, rfl⟩⟩

/-- A message of 3 bytes whose predicate agrees under REF (95_test_vectors.md section 10), and a block streamed from FRESH. -/
theorem witness_PairTransformAgainstStreaming :
    ([0x61, 0x62, 0x63] : List Byte).length ≤ 55 ∧
    refCfg.npred (blockAt (pad [0x61, 0x62, 0x63]) 0)[0] 64 = refCfg.npred (blockAt (pad [0x61, 0x62, 0x63]) 0)[0] 3 ∧
    Inv cfg State.reset ∧ State.reset.phase = .fresh :=
  ⟨by decide, by decide +kernel, witness_invariant.1, rfl⟩

/-- The zeros between the marker and the length, and the ends of the recurrence's range. -/
theorem witness_PadHasTheContractedShape_and_ScheduleFollowsTheRecurrence :
    (([] : List Byte).length < 1 ∧ 1 < (pad []).length - 8) ∧ (([] : List Byte).length < 55 ∧ 55 < (pad []).length - 8) ∧
    (16 ≤ 16 ∧ 16 < 64) ∧ (16 ≤ 63 ∧ 63 < 64) := by decide +kernel


end

end Sys2Proof.Machine
end

/-! ## The register map: which row an offset belongs to, and what its access does (20_memory.md R51, R55) -/

namespace Sys2Proof.Machine

/-- The offset lies in the bytes of the row `r` (20_memory.md R51). -/
def regCovers (r : Reg) (off : Nat) : Prop := regBase r ≤ off ∧ off < regBase r + regSpan r

theorem mem_allRegs (r : Reg) : r ∈ allRegs := by
  cases r with
  | h i =>
    revert i
    decide
  | _ => decide

/-- The rows of the register map do not overlap (20_memory.md R51). -/
theorem rows_disjoint : ∀ r ∈ allRegs, ∀ r' ∈ allRegs,
    r = r' ∨ regBase r + regSpan r ≤ regBase r' ∨ regBase r' + regSpan r' ≤ regBase r := by decide

theorem regCovers_unique {r r' : Reg} {off : Nat} (h : regCovers r off) (h' : regCovers r' off) : r = r' := by
  obtain ⟨hlo, hhi⟩ := h
  obtain ⟨hlo', hhi'⟩ := h'
  rcases rows_disjoint r (mem_allRegs r) r' (mem_allRegs r') with heq | hbelow | habove
  · exact heq
  · omega
  · omega

/-- The conditions of 20_memory.md R55, one by one. -/
theorem regAdmits_iff (d : Dir) (n : Size) (off : Nat) (r : Reg) :
    regAdmits d n off r = true ↔
      off % sizeBytes n = 0 ∧ regBase r ≤ off ∧ off + sizeBytes n ≤ regBase r + regSpan r ∧ n ∈ regSizes r ∧
        (r ≠ .msg ∨ off = 0x10) ∧ regAllows r d = true := by
  simp [regAdmits, and_assoc]

theorem sizeBytes_pos (n : Size) : 0 < sizeBytes n := by cases n <;> decide

theorem regCovers_of_regAdmits {d : Dir} {n : Size} {off : Nat} {r : Reg} (h : regAdmits d n off r = true) :
    regCovers r off := by
  obtain ⟨-, hlo, hhi, -⟩ := (regAdmits_iff d n off r).mp h
  have := sizeBytes_pos n
  exact ⟨hlo, by omega⟩

/-- Only the row that holds the offset decides about an access: it is the one that R55 looks at. -/
theorem admitted_of_covers {r : Reg} {off : Offset} (d : Dir) (n : Size) (h : regCovers r off.toNat) :
    admitted d n off = if regAdmits d n off.toNat r then some r else none := by
  cases hfind : admitted d n off with
  | none =>
    have hno := List.find?_eq_none.mp hfind r (mem_allRegs r)
    rw [if_neg hno]
  | some r' =>
    have hyes : regAdmits d n off.toNat r' = true := List.find?_some hfind
    obtain rfl := regCovers_unique (regCovers_of_regAdmits hyes) h
    rw [if_pos hyes]

theorem admitted_of_regAdmits {d : Dir} {n : Size} {off : Offset} {r : Reg} (h : regAdmits d n off.toNat r = true) :
    admitted d n off = some r := by
  rw [admitted_of_covers d n (regCovers_of_regAdmits h), if_pos h]

theorem admitted_eq_none_of_size {r : Reg} {off : Offset} {d : Dir} {n : Size} (hc : regCovers r off.toNat)
    (hn : n ∉ regSizes r) : admitted d n off = none := by
  rw [admitted_of_covers d n hc, if_neg]
  intro hadm
  obtain ⟨-, -, -, hsize, -⟩ := (regAdmits_iff d n off.toNat r).mp hadm
  exact hn hsize

theorem admitted_eq_none_of_dir {r : Reg} {off : Offset} {d : Dir} {n : Size} (hc : regCovers r off.toNat)
    (hd : regAllows r d = false) : admitted d n off = none := by
  rw [admitted_of_covers d n hc, if_neg]
  intro hadm
  obtain ⟨-, -, -, -, -, hallow⟩ := (regAdmits_iff d n off.toNat r).mp hadm
  simp [hd] at hallow

/-! ### Reads and writes by their admission -/

theorem busRead_of_admitted (C : Cfg) {n : Size} {off : Offset} {r : Reg} (s : State)
    (h : admitted .read n off = some r) :
    busRead C n off s = s.respond true (readValue C s r off.toNat (sizeBytes n)) := by
  simp [busRead, h]

theorem busRead_of_refused (C : Cfg) {n : Size} {off : Offset} (s : State) (h : admitted .read n off = none) :
    busRead C n off s = busError s := by
  simp [busRead, h]

theorem busWrite_of_refused (C : Cfg) {n : Size} {off : Offset} (v : Word) (s : State)
    (h : admitted .write n off = none) : busWrite C n off v s = busError s := by
  simp [busWrite, h]

/-- A write into a row without write access is a bus error, at every size and offset (R55 item 4). -/
theorem busWrite_of_readOnly (C : Cfg) {r : Reg} {off : Offset} (n : Size) (v : Word) (s : State)
    (hc : regCovers r off.toNat) (hw : regAllows r .write = false) : busWrite C n off v s = busError s :=
  busWrite_of_refused C v s (admitted_eq_none_of_dir hc hw)

/-- A read of a size that the row does not list is a bus error (R55 item 3). -/
theorem busRead_of_size (C : Cfg) {r : Reg} {off : Offset} {n : Size} (s : State)
    (hc : regCovers r off.toNat) (hn : n ∉ regSizes r) : busRead C n off s = busError s :=
  busRead_of_refused C s (admitted_eq_none_of_size hc hn)

/-- At a read-only register of 32-bit access every access but a four-byte read is a bus error. -/
theorem exec_readOnlyWord_refused {r : Reg} {off : Offset} (s : State) (v1 : BitVec 8) (v2 : BitVec 16) (v4 : BitVec 32)
    (hsizes : regSizes r = [.four]) (hw : regAllows r .write = false) (hc : regCovers r off.toNat) :
    exec (.rd1 off) s = .next (busError s) ∧ exec (.rd2 off) s = .next (busError s) ∧
    exec (.wr1 off v1) s = .next (busError s) ∧ exec (.wr2 off v2) s = .next (busError s) ∧
    exec (.wr4 off v4) s = .next (busError s) := by
  have hrd1 := busRead_of_size cfg (n := .one) s hc (by simp [hsizes])
  have hrd2 := busRead_of_size cfg (n := .two) s hc (by simp [hsizes])
  simp only [exec_rd1, exec_rd2, exec_wr1, exec_wr2, exec_wr4, hrd1, hrd2, busWrite_of_readOnly cfg _ _ s hc hw, and_self]

/-! ## The STATUS and ERR words, field by field (10_state.md R38, R39) -/

theorem statusWord_phase (s : State) : (statusWord s).extractLsb' 0 3 = phaseCode s.phase := by
  unfold statusWord
  exact BitVec.extractLsb'_append_eq_right

theorem statusWord_dvalid (s : State) : (statusWord s).getLsbD 3 = s.dvalid := by
  unfold statusWord
  iterate 2 rw [BitVec.getLsbD_append]
  simp

theorem statusWord_st (s : State) : (statusWord s).extractLsb' 4 2 = selfTestCode s.st := by
  unfold statusWord
  iterate 2 rw [BitVec.extractLsb'_append_eq_of_le (by decide)]
  exact BitVec.extractLsb'_append_eq_right

theorem statusWord_reserved_low (s : State) : (statusWord s).extractLsb' 6 2 = 0 := by
  unfold statusWord
  iterate 3 rw [BitVec.extractLsb'_append_eq_of_le (by decide)]
  exact BitVec.extractLsb'_append_eq_right

theorem statusWord_bufcnt (s : State) : ((statusWord s).extractLsb' 8 6).toNat = s.bufcnt.val := by
  have hfield : (statusWord s).extractLsb' 8 6 = BitVec.ofNat 6 s.bufcnt.val := by
    unfold statusWord
    iterate 4 rw [BitVec.extractLsb'_append_eq_of_le (by decide)]
    exact BitVec.extractLsb'_append_eq_right
  rw [hfield, BitVec.toNat_ofNat, Nat.mod_eq_of_lt s.bufcnt.isLt]

theorem statusWord_nfired (s : State) : (statusWord s).getLsbD 14 = s.nfired := by
  unfold statusWord
  iterate 6 rw [BitVec.getLsbD_append]
  simp

theorem statusWord_reserved_high (s : State) : (statusWord s).extractLsb' 15 17 = 0 := by
  unfold statusWord
  iterate 5 rw [BitVec.extractLsb'_append_eq_of_le (by decide)]
  exact BitVec.extractLsb'_append_eq_left

theorem statusWord_reset : statusWord State.reset = 0 := by decide

theorem errWord_bits (s : State) : (errWord s).extractLsb' 0 4 = s.err := BitVec.extractLsb'_append_eq_right

theorem errWord_reserved (s : State) : (errWord s).extractLsb' 4 28 = 0 := BitVec.extractLsb'_append_eq_left

theorem exec_rd4_status (s : State) : exec (.rd4 0x08) s = .next (s.respond true (statusWord s)) := by
  rw [exec_rd4, busRead_of_admitted cfg s (r := .status) (by decide)]
  rfl

theorem exec_rd4_err (s : State) : exec (.rd4 0x0C) s = .next (s.respond true (errWord s)) := by
  rw [exec_rd4, busRead_of_admitted cfg s (r := .err) (by decide)]
  rfl

theorem busRead_id (C : Cfg) (s : State) : busRead C .four 0x00 s = s.respond true C.devId := by
  rw [busRead_of_admitted C s (r := .id) (by decide)]
  rfl

/-! ## The NAME window (10_state.md R42) -/

/-- An aligned read of `NAME`, the `i`-th of its size, is a window read of the name bytes (20_memory.md R54). -/
theorem busRead_name (C : Cfg) (n : Size) (i : Nat) (s : State) (hi : sizeBytes n * i + sizeBytes n ≤ 16) :
    busRead C n (BitVec.ofNat 16 (0x80 + sizeBytes n * i)) s =
      s.respond true (windowRead (nameByte C s) (sizeBytes n * i) (sizeBytes n)) := by
  have hoff : (BitVec.ofNat 16 (0x80 + sizeBytes n * i)).toNat = 0x80 + sizeBytes n * i := by
    rw [BitVec.toNat_ofNat]
    omega
  have haligned : (0x80 + sizeBytes n * i) % sizeBytes n = 0 := by
    cases n <;> simp only [sizeBytes] <;> omega
  have hadm : admitted .read n (BitVec.ofNat 16 (0x80 + sizeBytes n * i)) = some .name := by
    apply admitted_of_regAdmits
    rw [hoff, regAdmits_iff]
    refine ⟨haligned, Nat.le_add_right _ _, ?_, ?_, .inl (by decide), rfl⟩
    · simp only [regBase, regSpan]
      omega
    · cases n <;> decide
  rw [busRead_of_admitted C s hadm, hoff]
  simp [readValue]

/-- A byte of the window in range is the gated byte of `IMPL_NAME` (10_state.md R42). -/
theorem nameByte_of_gate {C : Cfg} {s : State} {nameAt : Fin 16 → Byte}
    (hgate : ∀ i, nameAt i = if s.st = .pass then C.implName[i] else 0) (i : Nat) (hi : i < 16) :
    nameByte C s i = nameAt ⟨i, hi⟩ := by
  simp [nameByte, hi, hgate]

/-! ## The obligations on the registers STATUS, NAME, ERR and ID -/

/-- Settles O16: the fields by their places in `statusWord`, the refusals by the register map. -/
theorem statusRegisterPacksItsFields : Obligations.StatusRegisterPacksItsFields := by
  refine ⟨fun s => ⟨statusWord s, exec_rd4_status s, ?_, statusWord_dvalid s, ?_, statusWord_reserved_low s,
    statusWord_bufcnt s, statusWord_nfired s, statusWord_reserved_high s⟩, ?_, ?_⟩
  · rw [statusWord_phase]
    cases s.phase <;> rfl
  · rw [statusWord_st]
    cases s.st <;> rfl
  · rw [exec_rd4_status, statusWord_reset]
    rfl
  · intro s v1 v2 v4 off hlo hhi
    exact exec_readOnlyWord_refused (r := .status) s v1 v2 v4 rfl rfl ⟨hlo, hhi⟩

/-- Settles O20: each size of read is a window read of the gated bytes, and no row of the map lets `NAME` be written. -/
theorem nameWindowIsGatedBySelfTest : Obligations.NameWindowIsGatedBySelfTest := by
  refine ⟨fun C s nameAt hgate => ⟨fun i => ?_, fun i => ?_, fun i => ?_⟩, ?_⟩
  · have hread := busRead_name C .one i s (by simp only [sizeBytes]; omega)
    simp only [sizeBytes, one_mul, windowRead_one, nameByte_of_gate hgate i i.isLt] at hread
    exact hread
  · have hread := busRead_name C .two i s (by simp only [sizeBytes]; omega)
    simp only [sizeBytes, windowRead_two] at hread
    rw [nameByte_of_gate hgate _ (by omega), nameByte_of_gate hgate _ (by omega)] at hread
    exact hread
  · have hread := busRead_name C .four i s (by simp only [sizeBytes]; omega)
    simp only [sizeBytes, windowRead_four] at hread
    rw [nameByte_of_gate hgate _ (by omega), nameByte_of_gate hgate _ (by omega), nameByte_of_gate hgate _ (by omega),
      nameByte_of_gate hgate _ (by omega)] at hread
    exact hread
  · intro C n off v s hlo hhi
    exact busWrite_of_readOnly C (r := .name) n v s ⟨hlo, hhi⟩ rfl

/-- Settles O17: the register's word is `ERR` below 28 zeros. -/
theorem errRegisterShowsTheStickyBits : Obligations.ErrRegisterShowsTheStickyBits := by
  refine ⟨fun s => ⟨errWord s, exec_rd4_err s, errWord_bits s, errWord_reserved s⟩, ?_⟩
  intro s v1 v2 v4 off hlo hhi
  exact exec_readOnlyWord_refused (r := .err) s v1 v2 v4 rfl rfl ⟨hlo, hhi⟩

/-- Settles O18: the read under every configuration, then at `cfg`, whose `DEV_ID` is the reference value (10_state.md R40). -/
theorem idRegisterReadsTheDeviceIdentity : Obligations.IdRegisterReadsTheDeviceIdentity := by
  refine ⟨fun s => ?_, busRead_id, ?_⟩
  · rw [exec_rd4, busRead_id]
    rfl
  · intro s v1 v2 v4 off hhi
    exact exec_readOnlyWord_refused (r := .id) s v1 v2 v4 rfl rfl ⟨Nat.zero_le _, hhi⟩

end Sys2Proof.Machine

/-! ## What the decoder answers, kind by kind (30_encoding.md R81 to R83, R88) -/

namespace Sys2Proof

/-! ### The rows the decoder answers with are the most specific ones (R88) -/

theorem decodeRead_wellFormed (sz : BitVec 2) (off : Offset) : (decodeRead sz off).wellFormed = true := by
  unfold decodeRead
  split_ifs <;> rfl

theorem decodeWr1_wellFormed (off : Offset) (v : BitVec 8) : (decodeWr1 off v).wellFormed = true := by
  unfold decodeWr1
  split_ifs with hmsg
  · rfl
  · simp [Instr.wellFormed, hmsg]

theorem decodeWr2_wellFormed (off : Offset) (v : BitVec 16) : (decodeWr2 off v).wellFormed = true := by
  unfold decodeWr2
  split_ifs with hmsg
  · rfl
  · simp [Instr.wellFormed, hmsg]

theorem decodeCmdWrite_wellFormed (v : BitVec 32) : (decodeCmdWrite v).wellFormed = true := by
  unfold decodeCmdWrite
  split_ifs with h1 h2 h3 h4 h5
  case neg =>
    have hrefines : refinesWr4 offCmd v = false := by
      simpa [refinesWr4, offCmd, offMsg, offArgLo, offArgHi, and_assoc] using ⟨h1, h2, h3, h4, h5⟩
    simp [Instr.wellFormed, hrefines]
  all_goals rfl

theorem decodeWr4_wellFormed (off : Offset) (v : BitVec 32) : (decodeWr4 off v).wellFormed = true := by
  unfold decodeWr4
  split_ifs with hcmd hmsg hlo hhi
  case pos => exact decodeCmdWrite_wellFormed v
  case neg => simp [Instr.wellFormed, refinesWr4, hcmd, hmsg, hlo, hhi]
  all_goals rfl

/-! ### Which words are accepted, and as what -/

/-- KIND has four values. -/
theorem txKind_eq_one {w : TxWord} (h0 : txKind w ≠ 0) (h2 : txKind w ≠ 2) (h3 : txKind w ≠ 3) : txKind w = 1 := by
  bv_omega

/-- The ways a write is accepted, by its size (R82). -/
theorem decodeWrite_ok_cases {sz : BitVec 2} {off : Offset} {data : Word} {i : Instr}
    (h : decodeWrite sz off data = .ok i) :
    (sz = 0 ∧ data.extractLsb' 8 24 = 0 ∧ i = decodeWr1 off (data.extractLsb' 0 8)) ∨
    (sz = 1 ∧ data.extractLsb' 16 16 = 0 ∧ i = decodeWr2 off (data.extractLsb' 0 16)) ∨
    (sz ≠ 0 ∧ sz ≠ 1 ∧ i = decodeWr4 off data) := by
  unfold decodeWrite at h
  split_ifs at h with hone hnarrow htwo hnarrow
  · exact .inl ⟨hone, hnarrow, (Except.ok.inj h).symm⟩
  · exact .inr (.inl ⟨htwo, hnarrow, (Except.ok.inj h).symm⟩)
  · exact .inr (.inr ⟨hone, htwo, (Except.ok.inj h).symm⟩)

/-- A write is refused for its data alone, at one byte or at two. -/
theorem decodeWrite_error_cases {sz : BitVec 2} {off : Offset} {data : Word} {m : Malformed}
    (h : decodeWrite sz off data = .error m) :
    (sz = 0 ∧ data.extractLsb' 8 24 ≠ 0) ∨ (sz = 1 ∧ data.extractLsb' 16 16 ≠ 0) := by
  unfold decodeWrite at h
  split_ifs at h with hone hwide htwo hwide
  · exact .inl ⟨hone, hwide⟩
  · exact .inr ⟨htwo, hwide⟩

/-- The ways a word is accepted, by its kind (R81): a bare RST, a read without data, a write that fits its size. -/
theorem decode_ok_cases {w : TxWord} {i : Instr} (h : decode w = .ok i) :
    (txKind w = 2 ∧ w.extractLsb' 0 62 = 0 ∧ i = .rst) ∨
    (txKind w = 0 ∧ txSz w ≠ 3 ∧ txRsv w = 0 ∧ txData w = 0 ∧ i = decodeRead (txSz w) (txOff w)) ∨
    (txKind w = 1 ∧ txSz w ≠ 3 ∧ txRsv w = 0 ∧ decodeWrite (txSz w) (txOff w) (txData w) = .ok i) := by
  unfold decode at h
  split_ifs at h with hreserved hrst hbare hsz hrsv hread hdata
  · exact .inl ⟨hrst, hbare, (Except.ok.inj h).symm⟩
  · exact .inr (.inl ⟨hread, hsz, not_not.mp hrsv, hdata, (Except.ok.inj h).symm⟩)
  · exact .inr (.inr ⟨txKind_eq_one hread hrst hreserved, hsz, not_not.mp hrsv, h⟩)

theorem decodeWrite_wellFormed {sz : BitVec 2} {off : Offset} {data : Word} {i : Instr}
    (h : decodeWrite sz off data = .ok i) : i.wellFormed = true := by
  obtain ⟨-, -, rfl⟩ | ⟨-, -, rfl⟩ | ⟨-, -, rfl⟩ := decodeWrite_ok_cases h
  · exact decodeWr1_wellFormed _ _
  · exact decodeWr2_wellFormed _ _
  · exact decodeWr4_wellFormed _ _

theorem decode_wellFormed {w : TxWord} {i : Instr} (h : decode w = .ok i) : i.wellFormed = true := by
  obtain ⟨-, -, rfl⟩ | ⟨-, -, -, -, rfl⟩ | ⟨-, -, -, hwrite⟩ := decode_ok_cases h
  · rfl
  · exact decodeRead_wellFormed _ _
  · exact decodeWrite_wellFormed hwrite

/-! ### The fields that R83 looks at -/

/-- The bits of DATA above the low `lo` are those bits of the word. -/
theorem txData_extractLsb' (w : TxWord) {lo len : Nat} (h : lo + len ≤ 32) :
    (txData w).extractLsb' lo len = w.extractLsb' lo len := by
  apply BitVec.eq_of_getLsbD_eq
  intro i hi
  simp [txData, hi, show lo + i < 32 by omega]

/-- RSV lies within bits 61:0, so a bare RST has it zero. -/
theorem txRsv_eq_zero_of_bare {w : TxWord} (h : w.extractLsb' 0 62 = 0) : txRsv w = 0 := by
  apply BitVec.eq_of_getLsbD_eq
  intro i hi
  have hbit := congrArg (BitVec.getLsbD · (48 + i)) h
  simpa [txRsv, BitVec.getLsbD_extractLsb', hi, show 48 + i < 62 by omega] using hbit

end Sys2Proof

/-! ## Malformed words (30_encoding.md R83) -/

namespace Sys2Proof.Machine

/-- The clauses of R83 on the named fields of R81. -/
theorem malformedWord_iff_fields (w : TxWord) :
    malformedWord w ↔
      txKind w = 3 ∨
      ((txKind w = 0 ∨ txKind w = 1) ∧ txSz w = 3) ∨
      txRsv w ≠ 0 ∨
      (txKind w = 0 ∧ txData w ≠ 0) ∨
      (txKind w = 1 ∧ txSz w = 0 ∧ (txData w).extractLsb' 8 24 ≠ 0) ∨
      (txKind w = 1 ∧ txSz w = 1 ∧ (txData w).extractLsb' 16 16 ≠ 0) ∨
      (txKind w = 2 ∧ w.extractLsb' 0 62 ≠ 0) := by
  rw [txData_extractLsb' w (by decide : 8 + 24 ≤ 32), txData_extractLsb' w (by decide : 16 + 16 ≤ 32)]
  rfl

/-- Each refusal of the decoder names a clause of R83 that the word meets. -/
theorem malformedWord_of_decode_error {w : TxWord} {m : Malformed} (h : decode w = .error m) : malformedWord w := by
  rw [malformedWord_iff_fields]
  unfold decode at h
  split_ifs at h with hreserved hrst hbare hsz hrsv hread hdata
  · exact .inl hreserved
  · tauto
  · have hwrite : txKind w ≠ 0 → txKind w = 1 := fun hread => txKind_eq_one hread hrst hreserved
    tauto
  · exact .inr (.inr (.inl hrsv))
  · tauto
  · have hwrite := txKind_eq_one hread hrst hreserved
    have hwide := decodeWrite_error_cases h
    tauto

/-- A word that decodes meets no clause of R83. -/
theorem not_malformedWord_of_decode_ok {w : TxWord} {i : Instr} (h : decode w = .ok i) : ¬ malformedWord w := by
  rw [malformedWord_iff_fields]
  obtain ⟨hkind, hbare, -⟩ | ⟨hkind, hsz, hrsv, hdata, -⟩ | ⟨hkind, hsz, hrsv, hwrite⟩ := decode_ok_cases h
  · simp [hkind, hbare, txRsv_eq_zero_of_bare hbare]
  · simpa [hkind, hrsv, hdata] using hsz
  · obtain ⟨hone, hnarrow, -⟩ | ⟨htwo, hnarrow, -⟩ | ⟨hone, htwo, -⟩ := decodeWrite_ok_cases hwrite
    · simp [hkind, hrsv, hone, hnarrow]
    · simp [hkind, hrsv, htwo, hnarrow]
    · simp [hkind, hrsv, show ¬ txSz w = 0#2 from hone, show ¬ txSz w = 1#2 from htwo, show ¬ txSz w = 3#2 from hsz]

/-- The malformed words are those the decoder refuses (R83). -/
theorem malformedWord_iff_decode_error (w : TxWord) : malformedWord w ↔ ∃ m, decode w = .error m := by
  refine ⟨fun hmal => ?_, fun ⟨m, herr⟩ => malformedWord_of_decode_error herr⟩
  cases hdec : decode w with
  | ok i => exact absurd hmal (not_malformedWord_of_decode_ok hdec)
  | error m => exact ⟨m, rfl⟩

/-- A step whose next word does not decode is a bus error with the word taken off the list. -/
theorem step_of_decode_error {s : State} {w : TxWord} {rest : List TxWord} {m : Malformed} (hinbox : s.inbox = w :: rest)
    (herr : decode w = .error m) : step s = .next (busError (taken rest s)) := by
  simp [step, hinbox, herr]

/-- Settles O3: the decoder's two answers are the two kinds of word of R83, and its refusal is a bus error at every state. -/
theorem malformedWordsAreRefusedOnTheBus : Obligations.MalformedWordsAreRefusedOnTheBus := by
  refine ⟨fun w => ?_, fun w hmal ⟨i, hok⟩ => not_malformedWord_of_decode_ok hok hmal, ?_⟩
  · cases hdec : decode w with
    | ok i => exact .inl ⟨i, rfl, decode_wellFormed hdec⟩
    | error m => exact .inr (malformedWord_of_decode_error hdec)
  · intro s w rest hinbox hmal
    obtain ⟨m, herr⟩ := (malformedWord_iff_decode_error w).mp hmal
    rw [step_of_decode_error hinbox herr]
    rfl

end Sys2Proof.Machine

/-! ## The message schedule (42_schedule.md R131, R132) -/

namespace Sys2Proof.Machine

/-- `be32` as the sum of R131. -/
theorem be32_toNat (b0 b1 b2 b3 : Byte) :
    (be32 b0 b1 b2 b3).toNat = b0.toNat * 2 ^ 24 + b1.toNat * 2 ^ 16 + b2.toNat * 2 ^ 8 + b3.toNat := by
  unfold be32
  rw [toNat_concat, toNat_concat, toNat_concat]
  ring

/-! ### Expansion only appends, and each word it appends is the recurrence's -/

/-- Expansion keeps the words there are already. -/
theorem prefix_expand (C : Cfg) (n : Nat) (w : List Word) : w <+: expand C n w := by
  induction n generalizing w with
  | zero => exact List.prefix_rfl
  | succ n ih => exact (List.prefix_append w [nextWord C w]).trans (ih _)

/-- The word that expansion puts at `i` is computed from the words before it, "in increasing order" (R132). -/
theorem getElem_expand_of_length_le (C : Cfg) (n : Nat) (w : List Word) {i : Nat} (hold : w.length ≤ i)
    (hi : i < (expand C n w).length) : (expand C n w)[i] = nextWord C ((expand C n w).take i) := by
  induction n generalizing w with
  | zero => exact absurd hi (Nat.not_lt.mpr hold)
  | succ n ih =>
    rcases hold.eq_or_lt with rfl | hlater
    · have hfirst : w ++ [nextWord C w] <+: expand C (n + 1) w := prefix_expand C n _
      rw [← List.prefix_iff_eq_take.mp (prefix_expand C (n + 1) w), ← hfirst.getElem (by simp), List.getElem_concat_length rfl]
    · exact ih (w ++ [nextWord C w]) (by simpa using hlater) hi

/-- The next word after the first `i` words of a list, by the elements of the list. -/
theorem nextWord_take (C : Cfg) (w : List Word) {i : Nat} (h16 : 16 ≤ i) (hi : i < w.length) :
    nextWord C (w.take i) = w[i - 16] + C.ssig0 w[i - 15] + w[i - 7] + C.ssig1 w[i - 2] := by
  have hback : ∀ k, 0 < k → k ≤ 16 → (w.take i).getD ((w.take i).length - k) 0 = w[i - k] := by
    intro k hpos hk
    have hlt : i - k < (w.take i).length := by
      rw [List.length_take]
      omega
    rw [List.length_take_of_le hi.le, List.getD_eq_getElem _ _ hlt, List.getElem_take]
  unfold nextWord
  rw [hback 16 (by decide) (by decide), hback 15 (by decide) (by decide), hback 7 (by decide) (by decide),
    hback 2 (by decide) (by decide)]

/-! ### The words of the schedule -/

theorem schedule_getElem (C : Cfg) (b : Block) (i : Nat) (h : i < 64) :
    (schedule C b)[i] = (expand C 48 (firstWords b))[i]'(by simpa using h) := by
  simp only [schedule, Vector.getElem_mk, List.getElem_toArray]

/-- The first 16 words of the schedule are the words of the block (R131). -/
theorem schedule_getElem_eq_blockWord (C : Cfg) (b : Block) (i : Fin 16) : (schedule C b)[i.val] = blockWord b i := by
  rw [schedule_getElem, ← (prefix_expand C 48 (firstWords b)).getElem (by simp)]
  simp [firstWords]

/-- The further words of the schedule follow the recurrence (R132). -/
theorem schedule_getElem_eq_recurrence (C : Cfg) (b : Block) {i : Nat} (h16 : 16 ≤ i) (h : i < 64) :
    (schedule C b)[i] =
      (schedule C b)[i - 16] + C.ssig0 (schedule C b)[i - 15] + (schedule C b)[i - 7] + C.ssig1 (schedule C b)[i - 2] := by
  simp only [schedule_getElem]
  rw [getElem_expand_of_length_le C 48 _ (by simpa using h16), nextWord_take C _ h16 (by simpa using h)]

/-- Settles O52: the first sixteen words survive the expansion, and each further word is the recurrence's value on the words before it. -/
theorem scheduleFollowsTheRecurrence : Obligations.ScheduleFollowsTheRecurrence := by
  refine fun C b => ⟨fun i => ?_, fun i h16 h => schedule_getElem_eq_recurrence C b h16 h⟩
  rw [schedule_getElem_eq_blockWord, blockWord, be32_toNat]

end Sys2Proof.Machine

/-! ## The phases of the streaming hasher (46_streaming.md R205, R210, R215) -/

namespace Sys2Proof.Machine

/-! ### One pushed byte (R205) -/

/-- Storing a byte neither enters nor leaves PAIR. -/
theorem storeByte_phase_eq_pair_iff (b : Byte) (s : State) : (storeByte b s).phase = .pair ↔ s.phase = .pair := by
  rw [storeByte_phase]
  split_ifs with hfresh
  · simp [hfresh]
  · rfl

/-- Outside PAIR the byte that fills the buffer is followed by the compression alone. -/
theorem countByte_of_full_not_pair (C : Cfg) (b : Byte) {s : State} (hp : s.phase ≠ .pair) (hc : s.bufcnt = 63) :
    countByte C b s = compressBlock C (storeByte b s) := by
  rw [countByte_of_full C b s hc, blockFull_of_not_pair C _ (mt (storeByte_phase_eq_pair_iff b s).mp hp)]

theorem countByte_rem_of_not_pair (C : Cfg) (b : Byte) {s : State} (hp : s.phase ≠ .pair) :
    (countByte C b s).rem = s.rem := by
  by_cases hc : s.bufcnt = 63
  · simp [countByte_of_full_not_pair C b hp hc]
  · simp [countByte_of_room C b s hc]

theorem countByte_phase_of_not_pair (C : Cfg) (b : Byte) {s : State} (hp : s.phase ≠ .pair) :
    (countByte C b s).phase = if s.phase = .fresh then .accum else s.phase := by
  by_cases hc : s.bufcnt = 63
  · simp [countByte_of_full_not_pair C b hp hc]
  · simp [countByte_of_room C b s hc]

/-- `REM - 1` is 0 for `REM = 1` only, since the subtraction wraps. -/
theorem count_sub_one_eq_zero_iff (c : Count) : c - 1 = 0 ↔ c = 1 := sub_eq_zero

/-- In PAIR the phase changes at the last byte of the last input only (47_oneshot_pair.md R238). -/
theorem countByte_phase_of_pair (C : Cfg) (b : Byte) {s : State} (hp : s.phase = .pair) :
    (countByte C b s).phase = if s.bufcnt = 63 ∧ s.rem = 1 then .finalized else .pair := by
  by_cases hc : s.bufcnt = 63
  · rw [countByte_of_full C b s hc, blockFull_of_pair C _ ((storeByte_phase_eq_pair_iff b s).mpr hp),
      pairBlockDone_phase]
    simp only [compressBlock_rem, storeByte_rem, count_sub_one_eq_zero_iff]
    simp [hp, hc]
  · simp [countByte_of_room C b s hc, hp, hc]

@[simp] theorem finalize_phase (C : Cfg) (s : State) : (finalize C s).phase = .finalized := rfl

theorem pushByte_phase_of_streaming (C : Cfg) (b : Byte) {s : State} (hp : s.phase = .fresh ∨ s.phase = .accum) :
    (pushByte C b s).phase = .accum := by
  obtain ⟨hfinalized, hfatal, hpair⟩ : s.phase ≠ .finalized ∧ s.phase ≠ .fatal ∧ s.phase ≠ .pair := by
    rcases hp with hp | hp <;> simp [hp]
  have hcounted : (countByte C b s).phase = .accum := by
    rw [countByte_phase_of_not_pair C b hpair]
    rcases hp with hp | hp <;> simp [hp]
  rw [pushByte_of_open C b s hfinalized hfatal, countDown_of_not_oneshot C _ (by simp [hcounted]), hcounted]

/-- In ONESHOT a byte is counted, which leaves the phase and `REM`, and then counted down. -/
theorem pushByte_of_oneshot (C : Cfg) (b : Byte) {s : State} (hp : s.phase = .oneshot) :
    pushByte C b s = countDown C (countByte C b s) ∧ (countByte C b s).phase = .oneshot ∧
      (countByte C b s).rem = s.rem := by
  have hpair : s.phase ≠ .pair := by simp [hp]
  refine ⟨pushByte_of_open C b s (by simp [hp]) (by simp [hp]), ?_, countByte_rem_of_not_pair C b hpair⟩
  simp [countByte_phase_of_not_pair C b hpair, hp]

theorem pushByte_phase_of_oneshot_more (C : Cfg) (b : Byte) {s : State} (hp : s.phase = .oneshot)
    (hr : 1 < s.rem.toNat) : (pushByte C b s).phase = .oneshot := by
  obtain ⟨hpush, hphase, hrem⟩ := pushByte_of_oneshot C b hp
  have hmore : (countByte C b s).rem - 1 ≠ 0 := by
    rw [hrem, Ne, count_sub_one_eq_zero_iff]
    intro hone
    simp [hone] at hr
  rw [hpush, countDown_of_more C _ hphase hmore]
  exact hphase

theorem pushByte_phase_of_oneshot_last (C : Cfg) (b : Byte) {s : State} (hp : s.phase = .oneshot) (hr : s.rem = 1) :
    (pushByte C b s).phase = .finalized := by
  obtain ⟨hpush, hphase, hrem⟩ := pushByte_of_oneshot C b hp
  have hlast : (countByte C b s).rem - 1 = 0 := by rw [hrem, count_sub_one_eq_zero_iff, hr]
  rw [hpush, countDown_of_last C _ hphase hlast, finalize_phase]

theorem pushByte_phase_of_pair (C : Cfg) (b : Byte) {s : State} (hp : s.phase = .pair) :
    (pushByte C b s).phase = if s.bufcnt = 63 ∧ s.rem = 1 then .finalized else .pair := by
  have hcounted : (countByte C b s).phase ≠ .oneshot := by
    rw [countByte_phase_of_pair C b hp]
    split_ifs <;> simp
  rw [pushByte_of_open C b s (by simp [hp]) (by simp [hp]), countDown_of_not_oneshot C _ hcounted,
    countByte_phase_of_pair C b hp]

/-- A byte after the end, with its response, is the refusal the table writes "SEQ". -/
theorem respond_pushByte_of_closed (C : Cfg) (b : Byte) {s : State} (h : s.phase = .finalized ∨ s.phase = .fatal) :
    (pushByte C b s).respond true 0 = seqRefused s := by
  rw [pushByte_of_closed C b s h]
  rfl

/-! ### Commands: where they are legal, and the phase after each -/

/-- A command out of its phases, with its response, is the refusal the table writes "SEQ". -/
theorem respond_runCommand_of_illegal (C : Cfg) {c : Command} {s : State} (h : commandLegal c s.phase = false) :
    (runCommand C c s).respond true 0 = seqRefused s := by
  rw [runCommand_of_illegal C c s h]
  rfl

/-- RESET is refused in FATAL only (30_encoding.md R86). -/
theorem commandLegal_reset_iff (p : Phase) : commandLegal .reset p = true ↔ p ≠ .fatal := by
  cases p <;> decide

theorem hashCommand_phase (C : Cfg) (s : State) :
    (hashCommand C s).phase = if s.arg = 0 then .finalized else .oneshot := by
  split_ifs with hempty
  · rw [hashCommand_of_empty C s hempty, finalize_phase]
  · rw [hashCommand_of_length C s hempty]

theorem pairCommand_phase (C : Cfg) (s : State) :
    (pairCommand C s).phase = if s.arg = 0 then .finalized else .pair := by
  split_ifs with hnone
  · rw [pairCommand_of_none C s hnone]
  · rw [pairCommand_of_count C s hnone]

theorem runCommand_phase_of_reset (C : Cfg) {s : State} (h : commandLegal .reset s.phase = true) :
    (runCommand C .reset s).phase = .fresh := by
  rw [runCommand_of_legal C _ s h]
  rfl

theorem runCommand_phase_of_final (C : Cfg) {s : State} (h : commandLegal .final s.phase = true) :
    (runCommand C .final s).phase = .finalized := by
  rw [runCommand_of_legal C _ s h]
  exact finalize_phase C s

theorem runCommand_phase_of_hash (C : Cfg) {s : State} (h : commandLegal .hash s.phase = true) :
    (runCommand C .hash s).phase = if s.arg = 0 then .finalized else .oneshot := by
  rw [runCommand_of_legal C _ s h]
  exact hashCommand_phase C s

theorem runCommand_phase_of_pair (C : Cfg) {s : State} (h : commandLegal .pair s.phase = true) :
    (runCommand C .pair s).phase = if s.arg = 0 then .finalized else .pair := by
  rw [runCommand_of_legal C _ s h]
  exact pairCommand_phase C s

/-- NAME passes into FRESH or fails into FATAL (48_selftest.md R253). -/
theorem nameCommand_phase_st (C : Cfg) (s : State) :
    ((nameCommand C s).phase = .fresh ∧ (nameCommand C s).st = .pass) ∨
    ((nameCommand C s).phase = .fatal ∧ (nameCommand C s).st = .fail) := by
  obtain ⟨-, heq⟩ | ⟨-, heq⟩ := nameCommand_cases C s
  · exact .inl (by simp [heq])
  · exact .inr (by simp [heq])

theorem runCommand_phase_st_of_name (C : Cfg) {s : State} (h : commandLegal .name s.phase = true) :
    ((runCommand C .name s).phase = .fresh ∧ (runCommand C .name s).st = .pass) ∨
    ((runCommand C .name s).phase = .fatal ∧ (runCommand C .name s).st = .fail) := by
  rw [runCommand_of_legal C _ s h]
  exact nameCommand_phase_st C s

/-! ### Which answers a transaction can get (30_encoding.md R84) -/

@[simp] theorem finalize_responses (C : Cfg) (s : State) : (finalize C s).responses = s.responses := by
  obtain ⟨h, q, nf, b, heq⟩ := finalize_eq C s
  rw [heq]

theorem selfTestRun_responses (C : Cfg) (s : State) : (selfTestRun C s).responses = s.responses := by
  obtain ⟨-, -, -, hresp, -⟩ := pushBytes_frame C stMsg { softReset C s with phase := .fresh }
  rw [selfTestRun, finalize_responses, hresp]
  rfl

/-- No command gives a response by itself: the transaction does. -/
theorem commandEffect_responses (C : Cfg) (c : Command) (s : State) :
    (commandEffect C c s).responses = s.responses := by
  cases c with
  | reset => rfl
  | final => exact finalize_responses C s
  | hash =>
    change (hashCommand C s).responses = s.responses
    by_cases hempty : s.arg = 0
    · rw [hashCommand_of_empty C s hempty, finalize_responses, softReset_responses]
    · rw [hashCommand_of_length C s hempty, softReset_responses]
  | pair =>
    change (pairCommand C s).responses = s.responses
    by_cases hnone : s.arg = 0
    · rw [pairCommand_of_none C s hnone, softReset_responses]
    · rw [pairCommand_of_count C s hnone, softReset_responses]
  | name =>
    change (nameCommand C s).responses = s.responses
    obtain ⟨-, heq⟩ | ⟨-, heq⟩ := nameCommand_cases C s <;> simp [heq, selfTestRun_responses]

theorem runCommand_responses (C : Cfg) (c : Command) (s : State) : (runCommand C c s).responses = s.responses := by
  cases hlegal : commandLegal c s.phase with
  | true => rw [runCommand_of_legal C c s hlegal, commandEffect_responses]
  | false => rw [runCommand_of_illegal C c s hlegal, raise_responses]

theorem writeCommand_of_not_command (C : Cfg) {v : Word} (s : State) (h : commandOf v = none) :
    writeCommand C v s = s.raise .illcmd := by
  simp [writeCommand, h]

theorem writeCommand_of_command (C : Cfg) {v : Word} {c : Command} (s : State) (h : commandOf v = some c) :
    writeCommand C v s = runCommand C c s := by
  simp [writeCommand, h]

theorem writeCommand_responses (C : Cfg) (v : Word) (s : State) : (writeCommand C v s).responses = s.responses := by
  cases hcmd : commandOf v with
  | none => rw [writeCommand_of_not_command C s hcmd, raise_responses]
  | some c => rw [writeCommand_of_command C s hcmd, runCommand_responses]

theorem pushBytes_responses (C : Cfg) (bs : List Byte) (s : State) : (pushBytes C bs s).responses = s.responses := by
  obtain ⟨-, -, -, hresp, -⟩ := pushBytes_frame C bs s
  exact hresp

/-- `t` answers one transaction at `s`: a bus error with no other effect, or any effect with an OK response. -/
def Answers (s t : State) : Prop := t = busError s ∨ ∃ v, t.responses = s.responses ++ [⟨true, v⟩]

theorem answers_respond {s u : State} (v : Word) (h : u.responses = s.responses) : Answers s (u.respond true v) :=
  .inr ⟨v, by rw [respond_responses, h]⟩

/-- An error response is given by a bus error only, which changes no phase. -/
theorem Answers.phase_of_error {s t : State} (h : Answers s t) (herr : t.responses = s.responses ++ [⟨false, 0⟩]) :
    t.phase = s.phase := by
  obtain rfl | ⟨v, hok⟩ := h
  · rfl
  · simp [hok] at herr

theorem answers_busRead (C : Cfg) (n : Size) (off : Offset) (s : State) : Answers s (busRead C n off s) := by
  obtain ⟨-, heq⟩ | ⟨r, -, heq⟩ := busRead_cases C n off s
  · exact .inl heq
  · exact heq ▸ answers_respond _ rfl

theorem answers_busWrite (C : Cfg) (n : Size) (off : Offset) (v : Word) (s : State) :
    Answers s (busWrite C n off v s) := by
  obtain heq | ⟨-, heq⟩ | ⟨-, heq⟩ | ⟨-, heq⟩ | ⟨-, heq⟩ := busWrite_cases C n off v s
  · exact .inl heq
  · exact heq ▸ answers_respond 0 rfl
  · exact heq ▸ answers_respond 0 rfl
  · exact heq ▸ answers_respond 0 (writeCommand_responses C v s)
  · exact heq ▸ answers_respond 0 (pushBytes_responses C _ s)

theorem exec_answers (i : Instr) (s : State) : ∃ t, exec i s = .next t ∧ Answers s t := by
  cases i with
  | rd1 off => exact ⟨_, exec_rd1 off s, answers_busRead cfg _ off s⟩
  | rd2 off => exact ⟨_, exec_rd2 off s, answers_busRead cfg _ off s⟩
  | rd4 off => exact ⟨_, exec_rd4 off s, answers_busRead cfg _ off s⟩
  | wr1 off v => exact ⟨_, exec_wr1 off v s, answers_busWrite cfg _ off _ s⟩
  | wr2 off v => exact ⟨_, exec_wr2 off v s, answers_busWrite cfg _ off _ s⟩
  | wr4 off v => exact ⟨_, exec_wr4 off v s, answers_busWrite cfg _ off _ s⟩
  | rst => exact ⟨_, exec_rst s, answers_respond 0 (hardReset_responses cfg s)⟩
  | cmdReset => exact ⟨_, exec_cmdReset s, answers_respond 0 (runCommand_responses cfg _ s)⟩
  | cmdFinal => exact ⟨_, exec_cmdFinal s, answers_respond 0 (runCommand_responses cfg _ s)⟩
  | cmdHash => exact ⟨_, exec_cmdHash s, answers_respond 0 (runCommand_responses cfg _ s)⟩
  | cmdPair => exact ⟨_, exec_cmdPair s, answers_respond 0 (runCommand_responses cfg _ s)⟩
  | cmdName => exact ⟨_, exec_cmdName s, answers_respond 0 (runCommand_responses cfg _ s)⟩
  | push1 b0 => exact ⟨_, exec_push1 b0 s, answers_respond 0 (pushBytes_responses cfg _ s)⟩
  | push2 b0 b1 => exact ⟨_, exec_push2 b0 b1 s, answers_respond 0 (pushBytes_responses cfg _ s)⟩
  | push4 b0 b1 b2 b3 => exact ⟨_, exec_push4 b0 b1 b2 b3 s, answers_respond 0 (pushBytes_responses cfg _ s)⟩
  | setargLo v => exact ⟨_, exec_setargLo v s, answers_respond 0 (setArgLo_responses v s)⟩
  | setargHi v => exact ⟨_, exec_setargHi v s, answers_respond 0 (setArgHi_responses v s)⟩

theorem exec_phase_of_error {i : Instr} {s t : State} (ht : exec i s = .next t)
    (herr : t.responses = s.responses ++ [⟨false, 0⟩]) : t.phase = s.phase := by
  obtain ⟨u, hu, hans⟩ := exec_answers i s
  obtain rfl : u = t := by simpa [hu] using ht
  exact hans.phase_of_error herr

/-! ### Events outside the table -/

theorem busRead_phase (C : Cfg) (n : Size) (off : Offset) (s : State) : (busRead C n off s).phase = s.phase := by
  obtain ⟨-, heq⟩ | ⟨r, -, heq⟩ := busRead_cases C n off s <;> rw [heq] <;> rfl

/-- A four-byte write at `CMD` is admitted and runs its command word (20_memory.md R57, 30_encoding.md R85). -/
theorem busWrite_cmd (C : Cfg) (v : Word) (s : State) :
    busWrite C .four 0x04 v s = (writeCommand C v s).respond true 0 := by
  have hadm : admitted .write .four 0x04 = some .cmd := admitted_of_regAdmits (by decide)
  rw [busWrite, hadm]

/-! ### The command RESET, and the table -/

theorem exec_cmdReset_of_legal {s : State} (hp : s.phase ≠ .fatal) :
    exec .cmdReset s = .next ((resetCommand cfg s).respond true 0) := by
  rw [exec_cmdReset, runCommand_of_legal cfg .reset s ((commandLegal_reset_iff _).mpr hp)]
  rfl

/-- Settles O31: out of FATAL the command is `reset()` and PHASE FRESH, in FATAL it is not legal. -/
theorem resetCommandRestoresTheInitialState : Obligations.ResetCommandRestoresTheInitialState := by
  refine ⟨by decide, fun s => ⟨fun hp => ?_, fun hp => ?_⟩⟩
  · rw [exec_cmdReset_of_legal hp]
    rfl
  · rw [exec_cmdReset, respond_runCommand_of_illegal cfg (hp ▸ rfl)]

/-- Settles O39, row by row of the table: an accepted event by the lemma on the phase after it and a refused
one by the lemma on its refusal. An error response is a bus error whatever the instruction. -/
theorem phaseFollowsTheTransitionTable : Obligations.PhaseFollowsTheTransitionTable := by
  intro s
  refine ⟨fun b => ⟨_, exec_push1 b s, ?_⟩, ⟨_, exec_cmdReset s, ?_⟩, ⟨_, exec_cmdFinal s, ?_⟩, ⟨_, exec_cmdHash s, ?_⟩,
    ⟨_, exec_cmdPair s, ?_⟩, ⟨_, exec_cmdName s, ?_⟩, ⟨_, exec_rst s, rfl⟩, ?_, ?_, ?_⟩
  · cases hp : s.phase with
    | fresh => exact pushByte_phase_of_streaming cfg b (.inl hp)
    | accum => exact pushByte_phase_of_streaming cfg b (.inr hp)
    | finalized => exact respond_pushByte_of_closed cfg b (.inl hp)
    | fatal => exact respond_pushByte_of_closed cfg b (.inr hp)
    | oneshot => exact ⟨pushByte_phase_of_oneshot_more cfg b hp, pushByte_phase_of_oneshot_last cfg b hp⟩
    | pair => exact pushByte_phase_of_pair cfg b hp
  · cases hp : s.phase with
    | fatal => exact respond_runCommand_of_illegal cfg (hp ▸ rfl)
    | _ => exact runCommand_phase_of_reset cfg (hp ▸ rfl)
  · cases hp : s.phase with
    | fresh | accum => exact runCommand_phase_of_final cfg (hp ▸ rfl)
    | _ => exact respond_runCommand_of_illegal cfg (hp ▸ rfl)
  · cases hp : s.phase with
    | fresh | finalized => exact runCommand_phase_of_hash cfg (hp ▸ rfl)
    | _ => exact respond_runCommand_of_illegal cfg (hp ▸ rfl)
  · cases hp : s.phase with
    | fresh | finalized => exact runCommand_phase_of_pair cfg (hp ▸ rfl)
    | _ => exact respond_runCommand_of_illegal cfg (hp ▸ rfl)
  · cases hp : s.phase with
    | fresh | finalized => exact runCommand_phase_st_of_name cfg (hp ▸ rfl)
    | _ => exact respond_runCommand_of_illegal cfg (hp ▸ rfl)
  · rintro off v t (h | h | h | h | h) <;> cases h
    · exact busRead_phase cfg _ off s
    · exact busRead_phase cfg _ off s
    · exact busRead_phase cfg _ off s
    · rfl
    · rfl
  · exact fun i t => exec_phase_of_error
  · intro v t hv ht
    rw [exec_wr4, busWrite_cmd, writeCommand_of_not_command cfg s hv] at ht
    cases ht
    rfl

end Sys2Proof.Machine

/-! ## The hash over a message: the padded blocks, and what a core that took the message in holds (47_oneshot_pair.md R231) -/

namespace Sys2Proof.Machine

/-! ### Blocks, byte by byte (41_padding.md R120, R122) -/

@[simp] theorem blockAt_getElem (p : List Byte) (j : Nat) {i : Nat} (hi : i < 64) :
    (blockAt p j)[i] = p.getD (64 * j + i) 0 := by
  simp [blockAt]

theorem storeAt_getElem (c : Fin 64) (x : Byte) (b : Block) {i : Nat} (hi : i < 64) :
    (storeAt c x b)[i] = if c.val = i then x else b[i] := by
  simp [storeAt, Vector.getElem_set]

theorem fillZero_getElem (lo hi : Nat) (b : Block) {i : Nat} (h : i < 64) :
    (fillZero lo hi b)[i] = if lo ≤ i ∧ i < hi then 0 else b[i] := by
  simp [fillZero]

theorem putLength_getElem (l : Nat) (b : Block) {i : Nat} (hi : i < 64) :
    (putLength l b)[i] = if 56 ≤ i then (ser64 (bitlen l)).getD (i - 56) 0 else b[i] := by
  simp [putLength]

/-- A block of message bytes does not depend on what follows it. -/
theorem blockAt_append_of_le (m rest : List Byte) {j : Nat} (h : 64 * (j + 1) ≤ m.length) :
    blockAt (m ++ rest) j = blockAt m j := by
  apply Vector.ext
  intro i hi
  rw [blockAt_getElem, blockAt_getElem, List.getD_append _ _ _ _ (by omega)]

/-! ### The padded message, zone by zone (R120) -/

theorem zeroCount_of_fits {l : Nat} (h : l % 64 ≤ 55) : zeroCount l = 55 - l % 64 := by
  unfold zeroCount
  omega

theorem zeroCount_of_spills {l : Nat} (h : 55 < l % 64) : zeroCount l = 119 - l % 64 := by
  unfold zeroCount
  omega

/-- What `pad` puts after the message. -/
theorem pad_eq_append (m : List Byte) :
    pad m = m ++ (0x80 :: (List.replicate (zeroCount m.length) 0 ++ ser64 (bitlen m.length))) := by
  simp [pad]

theorem ser64_length (v : Count) : (ser64 v).length = 8 := rfl

theorem pad_length (m : List Byte) : (pad m).length = m.length + zeroCount m.length + 9 := by
  simp only [pad_eq_append, List.length_append, List.length_cons, List.length_replicate, ser64_length]
  omega

theorem pad_getD_message (m : List Byte) {i : Nat} (h : i < m.length) : (pad m).getD i 0 = m.getD i 0 := by
  rw [pad_eq_append, List.getD_append _ _ _ _ h]

theorem pad_getD_marker (m : List Byte) : (pad m).getD m.length 0 = 0x80 := by
  rw [pad_eq_append, List.getD_append_right _ _ _ _ le_rfl, Nat.sub_self, List.getD_cons_zero]

theorem pad_getD_zero (m : List Byte) {i : Nat} (hlo : m.length < i) (hhi : i ≤ m.length + zeroCount m.length) :
    (pad m).getD i 0 = 0 := by
  obtain ⟨k, rfl⟩ : ∃ k, i = m.length + (k + 1) := ⟨i - m.length - 1, by omega⟩
  rw [pad_eq_append, List.getD_append_right _ _ _ _ (by omega), Nat.add_sub_cancel_left, List.getD_cons_succ,
    List.getD_append _ _ _ _ (by simp; omega)]
  simp

theorem pad_getD_length (m : List Byte) (k : Nat) :
    (pad m).getD (m.length + zeroCount m.length + 1 + k) 0 = (ser64 (bitlen m.length)).getD k 0 := by
  rw [pad_eq_append, List.getD_append_right _ _ _ _ (by omega),
    show m.length + zeroCount m.length + 1 + k - m.length = zeroCount m.length + k + 1 by omega, List.getD_cons_succ,
    List.getD_append_right _ _ _ _ (by simp), List.length_replicate, Nat.add_sub_cancel_left]

/-- A block of the padded message that ends in the length field (R120). -/
theorem pad_getD_lengthField (m : List Byte) {j i : Nat} (hend : 64 * j + 56 = m.length + zeroCount m.length + 1)
    (hi : 56 ≤ i) : (pad m).getD (64 * j + i) 0 = (ser64 (bitlen m.length)).getD (i - 56) 0 := by
  rw [← pad_getD_length, ← hend]
  congr 1
  omega

/-- The length field counts bits modulo 2^64, so a byte count modulo 2^64 gives the same field (R123). -/
theorem bitlen_mod (l : Nat) : bitlen (l % 2 ^ 64) = bitlen l := by
  apply BitVec.eq_of_toNat_eq
  simp only [bitlen, BitVec.toNat_ofNat]
  omega

/-! ### The blocks that PadFinal compresses are the last blocks of the padded message (R122) -/

/-- The second block holds zeros and the length, whatever the buffer held. -/
theorem lengthBlock_of_spills {m : List Byte} (b : Block) (hspills : 55 < m.length % 64) :
    putLength m.length (fillZero 0 56 b) = blockAt (pad m) (m.length / 64 + 1) := by
  have hzero := zeroCount_of_spills hspills
  apply Vector.ext
  intro i hi
  rw [putLength_getElem, fillZero_getElem, blockAt_getElem]
  split_ifs with hlength hzeros
  · exact (pad_getD_lengthField m (by omega) hlength).symm
  · exact (pad_getD_zero m (by omega) (by omega)).symm
  · omega

section PaddedBlocks

variable {m : List Byte} {c : Fin 64} {b : Block} (hc : c.val = m.length % 64)
  (hb : ∀ i (hi : i < 64), i < m.length % 64 → b[i] = (blockAt m (m.length / 64))[i])

include hc hb

/-- The buffer with the marker holds the first bytes of the block of `pad m` in which the message ends. -/
theorem marked_getElem {i : Nat} (hi : i ≤ c.val) :
    (storeAt c 0x80 b)[i] = (pad m).getD (64 * (m.length / 64) + i) 0 := by
  rw [storeAt_getElem]
  split_ifs with heq
  · rw [← heq, hc, Nat.div_add_mod, pad_getD_marker]
  · rw [hb i (by omega) (by omega), blockAt_getElem, pad_getD_message m (by omega)]

/-- With at most 55 bytes in the buffer the marker, the zeros and the length complete one block. -/
theorem paddedBlock_of_fits (hfits : m.length % 64 ≤ 55) :
    putLength m.length (fillZero (c.val + 1) 56 (storeAt c 0x80 b)) = blockAt (pad m) (m.length / 64) := by
  have hzero := zeroCount_of_fits hfits
  apply Vector.ext
  intro i hi
  rw [putLength_getElem, fillZero_getElem, blockAt_getElem]
  split_ifs with hlength hzeros
  · exact (pad_getD_lengthField m (by omega) hlength).symm
  · exact (pad_getD_zero m (by omega) (by omega)).symm
  · exact marked_getElem hc hb (by omega)

/-- With 56 bytes or more the marker and zeros complete the block, without the length. -/
theorem paddedBlock_of_spills (hspills : 55 < m.length % 64) :
    fillZero (c.val + 1) 64 (storeAt c 0x80 b) = blockAt (pad m) (m.length / 64) := by
  have hzero := zeroCount_of_spills hspills
  apply Vector.ext
  intro i hi
  rw [fillZero_getElem, blockAt_getElem]
  split_ifs with hzeros
  · exact (pad_getD_zero m (by omega) (by omega)).symm
  · exact marked_getElem hc hb (by omega)

end PaddedBlocks

/-! ### The chain over the blocks of message bytes, and the one or two blocks that end it (47_oneshot_pair.md R231) -/

/-- The chain after the first `n` blocks, when they are made of message bytes only: `len_j = 64 (j + 1)` for each of them. -/
def messageChain (C : Cfg) (m : List Byte) : Nat → Chain
  | 0 => ⟨C.iv, 0⟩
  | n + 1 => chainBlock C (messageChain C m n) (blockAt m n) (64 * (n + 1))

theorem messageChain_append (C : Cfg) (m rest : List Byte) {n : Nat} (h : 64 * n ≤ m.length) :
    messageChain C (m ++ rest) n = messageChain C m n := by
  induction n with
  | zero => rfl
  | succ n ih => rw [messageChain, messageChain, ih (by omega), blockAt_append_of_le m rest h]

/-- The blocks of message bytes are the first blocks of `NLCHash`. -/
theorem foldl_pad_eq_messageChain (C : Cfg) (m : List Byte) {n : Nat} (h : n ≤ m.length / 64) :
    (List.range n).foldl (fun c j => chainBlock C c (blockAt (pad m) j) (blockLen m.length j)) ⟨C.iv, 0⟩ =
      messageChain C m n := by
  induction n with
  | zero => rfl
  | succ n ih =>
    rw [List.range_succ, List.foldl_append, ih (by omega), List.foldl_cons, List.foldl_nil, messageChain, blockLen,
      if_pos (by omega), pad_eq_append, blockAt_append_of_le m _ (by omega)]

/-- The blocks that hold padding are compressed with the length of the message. -/
theorem blockLen_of_padding {l j : Nat} (h : l / 64 ≤ j) : blockLen l j = l := by
  rw [blockLen, if_neg (by omega)]

theorem hashChain_of_fits (C : Cfg) (m : List Byte) (hfits : m.length % 64 ≤ 55) :
    hashChain C m =
      chainBlock C (messageChain C m (m.length / 64)) (blockAt (pad m) (m.length / 64)) m.length := by
  have hblocks : (pad m).length / 64 = m.length / 64 + 1 := by
    rw [pad_length, zeroCount_of_fits hfits]
    omega
  rw [hashChain, hblocks, List.range_succ, List.foldl_append, foldl_pad_eq_messageChain C m le_rfl, List.foldl_cons,
    List.foldl_nil, blockLen_of_padding le_rfl]

theorem hashChain_of_spills (C : Cfg) (m : List Byte) (hspills : 55 < m.length % 64) :
    hashChain C m =
      chainBlock C
        (chainBlock C (messageChain C m (m.length / 64)) (blockAt (pad m) (m.length / 64)) m.length)
        (blockAt (pad m) (m.length / 64 + 1)) m.length := by
  have hblocks : (pad m).length / 64 = m.length / 64 + 1 + 1 := by
    rw [pad_length, zeroCount_of_spills hspills]
    omega
  rw [hashChain, hblocks, List.range_succ, List.range_succ, List.foldl_append, List.foldl_append,
    foldl_pad_eq_messageChain C m le_rfl, List.foldl_cons, List.foldl_nil, List.foldl_cons, List.foldl_nil,
    blockLen_of_padding le_rfl, blockLen_of_padding (Nat.le_succ _)]

/-! ### A core that has taken a message in -/

/-- What the core holds after the bytes `m` of a message, streamed or announced by HASH: the full blocks of `m` are
chained in `H` and `QMIX`, the bytes after them are in `BUF`, and `LEN` and `BUFCNT` count (46_streaming.md R205). -/
structure Absorbed (C : Cfg) (m : List Byte) (s : State) : Prop where
  h : s.h = (messageChain C m (m.length / 64)).h
  qmix : s.qmix = (messageChain C m (m.length / 64)).q
  len : s.len = BitVec.ofNat 64 m.length
  bufcnt : s.bufcnt.val = m.length % 64
  buf : ∀ i (hi : i < 64), i < m.length % 64 → s.buf[i] = (blockAt m (m.length / 64))[i]

/-- The start of a message: `H` is `IV`, the counters are 0 (46_streaming.md R203, 10_state.md R36). -/
theorem absorbed_nil {C : Cfg} {s : State} (hh : s.h = C.iv) (hq : s.qmix = 0) (hl : s.len = 0) (hc : s.bufcnt = 0) :
    Absorbed C [] s where
  h := hh
  qmix := hq
  len := hl
  bufcnt := by rw [hc]; rfl
  buf := by simp

/-- `REM` says nothing of the bytes pushed so far. -/
theorem Absorbed.with_rem {C : Cfg} {m : List Byte} {s : State} (hs : Absorbed C m s) (r : Count) :
    Absorbed C m { s with rem := r } :=
  ⟨hs.h, hs.qmix, hs.len, hs.bufcnt, hs.buf⟩

/-- Nor does the list of responses. -/
theorem Absorbed.with_responses {C : Cfg} {m : List Byte} {s : State} (hs : Absorbed C m s) (rs : List Response) :
    Absorbed C m { s with responses := rs } :=
  ⟨hs.h, hs.qmix, hs.len, hs.bufcnt, hs.buf⟩

/-- The byte after `m` goes to the place of `BUF` where the message has it (R205). -/
theorem Absorbed.storeByte_buf {C : Cfg} {m : List Byte} {s : State} (hs : Absorbed C m s) (b : Byte) {i : Nat}
    (hi : i ≤ m.length % 64) :
    (storeByte b s).buf[i] = (blockAt (m ++ [b]) (m.length / 64))[i] := by
  rw [Machine.storeByte_buf, storeAt_getElem, hs.bufcnt, blockAt_getElem]
  split_ifs with heq
  · rw [← heq, Nat.div_add_mod, List.getD_append_right _ _ _ _ le_rfl, Nat.sub_self, List.getD_cons_zero]
  · rw [hs.buf i (by omega) (by omega), blockAt_getElem, List.getD_append _ _ _ _ (by omega)]

theorem ofNat_length_concat (m : List Byte) (b : Byte) :
    BitVec.ofNat 64 m.length + 1 = BitVec.ofNat 64 (m ++ [b]).length := by
  rw [List.length_append, List.length_singleton, BitVec.ofNat_add]
  rfl

/-- A byte that leaves room in the block is absorbed by being stored. -/
theorem Absorbed.countByte_of_room {C : Cfg} {m : List Byte} {s : State} (hs : Absorbed C m s) (b : Byte)
    (hc : s.bufcnt ≠ 63) : Absorbed C (m ++ [b]) (countByte C b s) := by
  have hroom : m.length % 64 < 63 := by
    have := hs.bufcnt
    omega
  have hdiv : (m ++ [b]).length / 64 = m.length / 64 := by
    rw [List.length_append, List.length_singleton]
    omega
  have hmod : (m ++ [b]).length % 64 = m.length % 64 + 1 := by
    rw [List.length_append, List.length_singleton]
    omega
  have hchain := messageChain_append C m [b] (Nat.mul_div_le m.length 64)
  rw [Machine.countByte_of_room C b s hc]
  constructor
  case h => rw [hdiv, hchain]; exact hs.h
  case qmix => rw [hdiv, hchain]; exact hs.qmix
  case len => rw [← ofNat_length_concat, ← hs.len]; rfl
  case bufcnt =>
    rw [hmod, ← hs.bufcnt]
    exact Fin.val_add_one_of_lt' (by have := hs.bufcnt; omega)
  case buf =>
    intro i hi hlt
    simp only [hdiv]
    exact hs.storeByte_buf b (by omega)

/-- The byte that fills the block is absorbed with the compression of the block, `LEN` counting it already (R205). -/
theorem Absorbed.countByte_of_full {C : Cfg} {m : List Byte} {s : State} (hs : Absorbed C m s) (b : Byte)
    (hp : s.phase ≠ .pair) (hc : s.bufcnt = 63) : Absorbed C (m ++ [b]) (countByte C b s) := by
  have hfull : m.length % 64 = 63 := by
    have := hs.bufcnt
    omega
  have hlen : (m ++ [b]).length = 64 * (m.length / 64 + 1) := by
    rw [List.length_append, List.length_singleton]
    omega
  have hdiv : (m ++ [b]).length / 64 = m.length / 64 + 1 := by omega
  have hblock : (storeByte b s).buf = blockAt (m ++ [b]) (m.length / 64) :=
    Vector.ext fun i hi => hs.storeByte_buf b (by omega)
  have hcount : (storeByte b s).len = BitVec.ofNat 64 (m ++ [b]).length := by
    rw [← ofNat_length_concat, ← hs.len]
    rfl
  have hchain : messageChain C (m ++ [b]) ((m ++ [b]).length / 64) =
      chainBlock C (messageChain C m (m.length / 64)) (storeByte b s).buf (m ++ [b]).length := by
    rw [hdiv, messageChain, messageChain_append C m [b] (Nat.mul_div_le m.length 64), hblock, hlen]
  rw [countByte_of_full_not_pair C b hp hc]
  constructor
  case h => rw [hchain, compressBlock_h, hcount, storeByte_h, storeByte_qmix, hs.h, hs.qmix]; rfl
  case qmix => rw [hchain, compressBlock_qmix, hcount, storeByte_h, storeByte_qmix, hs.h, hs.qmix]; rfl
  case len => exact hcount
  case bufcnt => rw [compressBlock_bufcnt, hlen, Nat.mul_mod_right]; rfl
  case buf =>
    intro i hi hlt
    omega

/-- Outside PAIR every accepted byte is absorbed. -/
theorem Absorbed.countByte {C : Cfg} {m : List Byte} {s : State} (hs : Absorbed C m s) (b : Byte) (hp : s.phase ≠ .pair) :
    Absorbed C (m ++ [b]) (countByte C b s) := by
  by_cases hc : s.bufcnt = 63
  · exact hs.countByte_of_full b hp hc
  · exact hs.countByte_of_room b hc

/-! ### PadFinal and Finalize complete the hash (41_padding.md R122, 46_streaming.md R208) -/

/-- The padded blocks complete the chain of `NLCHash`. -/
theorem Absorbed.padFinal_h {C : Cfg} {m : List Byte} {s : State} (hs : Absorbed C m s) :
    (padFinal C s).h = (hashChain C m).h := by
  have hbits : bitlen s.len.toNat = bitlen m.length := by rw [hs.len, BitVec.toNat_ofNat, bitlen_mod]
  have hput : ∀ b, putLength s.len.toNat b = putLength m.length b := fun b => by rw [putLength, hbits, putLength]
  have hcount := hs.bufcnt
  unfold padFinal
  dsimp only
  split_ifs with hspills
  · rw [hput, lengthBlock_of_spills _ (by omega), paddedBlock_of_spills hcount hs.buf (by omega),
      hashChain_of_spills C m (by omega)]
    simp only [compressBlock_h, compressBlock_qmix, compressBlock_len, hs.h, hs.qmix, hs.len]
    rfl
  · rw [hput, paddedBlock_of_fits hcount hs.buf (by omega), hashChain_of_fits C m (by omega)]
    simp only [compressBlock_h, hs.h, hs.qmix, hs.len]
    rfl

@[simp] theorem finalize_out (C : Cfg) (s : State) : (finalize C s).out = serialize (padFinal C s).h := rfl

@[simp] theorem finalize_dvalid (C : Cfg) (s : State) : (finalize C s).dvalid = true := rfl

@[simp] theorem finalize_len (C : Cfg) (s : State) : (finalize C s).len = s.len := by
  obtain ⟨h, q, nf, b, heq⟩ := finalize_eq C s
  rw [heq]

@[simp] theorem finalize_rem (C : Cfg) (s : State) : (finalize C s).rem = s.rem := by
  obtain ⟨h, q, nf, b, heq⟩ := finalize_eq C s
  rw [heq]

@[simp] theorem finalize_err (C : Cfg) (s : State) : (finalize C s).err = s.err := by
  obtain ⟨h, q, nf, b, heq⟩ := finalize_eq C s
  rw [heq]

/-- The end of a message: its digest is in `OUT` and valid, and `LEN` is its length (47_oneshot_pair.md R230). -/
structure Digested (C : Cfg) (m : List Byte) (s : State) : Prop where
  out : s.out = nlcHash C m
  phase : s.phase = .finalized
  dvalid : s.dvalid = true
  len : s.len = BitVec.ofNat 64 m.length

/-- `Finalize()` after a message gives its digest (46_streaming.md R208). -/
theorem Absorbed.finalize {C : Cfg} {m : List Byte} {s : State} (hs : Absorbed C m s) : Digested C m (finalize C s) where
  out := by rw [finalize_out, hs.padFinal_h, nlcHash]
  phase := finalize_phase C s
  dvalid := finalize_dvalid C s
  len := by rw [finalize_len, hs.len]

end Sys2Proof.Machine

/-! ## Pushes as transactions: a run of them pushes their bytes (46_streaming.md R204) -/

namespace Sys2Proof.Machine

/-! ### No push reads the list of responses (log entry 5) -/

section Responses

variable (C : Cfg) (s : State) (rs : List Response)

theorem padFinal_with_responses : padFinal C { s with responses := rs } = { padFinal C s with responses := rs } := by
  unfold padFinal
  dsimp only
  split_ifs <;> rfl

theorem finalize_with_responses : finalize C { s with responses := rs } = { finalize C s with responses := rs } := by
  rw [finalize, padFinal_with_responses]
  rfl

theorem blockFull_with_responses : blockFull C { s with responses := rs } = { blockFull C s with responses := rs } := by
  by_cases hp : s.phase = .pair
  · rw [blockFull_of_pair C s hp]
    exact blockFull_of_pair C { s with responses := rs } hp
  · rw [blockFull_of_not_pair C s hp]
    exact blockFull_of_not_pair C { s with responses := rs } hp

theorem countByte_with_responses (b : Byte) :
    countByte C b { s with responses := rs } = { countByte C b s with responses := rs } := by
  unfold countByte
  dsimp only
  split_ifs
  · exact blockFull_with_responses C (storeByte b s) rs
  · rfl

theorem countDown_with_responses : countDown C { s with responses := rs } = { countDown C s with responses := rs } := by
  unfold countDown
  dsimp only
  split_ifs
  · exact finalize_with_responses C { s with rem := s.rem - 1 } rs
  · rfl
  · rfl

theorem pushByte_with_responses (b : Byte) :
    pushByte C b { s with responses := rs } = { pushByte C b s with responses := rs } := by
  by_cases hclosed : s.phase = .finalized ∨ s.phase = .fatal
  · rw [pushByte_of_closed C b s hclosed]
    exact pushByte_of_closed C b { s with responses := rs } hclosed
  · obtain ⟨hfinalized, hfatal⟩ := not_or.mp hclosed
    rw [pushByte_of_open C b s hfinalized hfatal, ← countDown_with_responses, ← countByte_with_responses]
    exact pushByte_of_open C b { s with responses := rs } hfinalized hfatal

end Responses

theorem pushBytes_with_responses (C : Cfg) (bs : List Byte) (s : State) (rs : List Response) :
    pushBytes C bs { s with responses := rs } = { pushBytes C bs s with responses := rs } := by
  induction bs generalizing s with
  | nil => rfl
  | cons b bs ih => rw [pushBytes_cons, pushBytes_cons, pushByte_with_responses, ih]

/-! ### Runs -/

theorem runInstrs_cons_of_exec {i : Instr} {s t : State} (rest : List Instr) (h : exec i s = .next t) :
    runInstrs (i :: rest) s = runInstrs rest t := by
  simp only [runInstrs, h]

theorem runInstrs_append_of_run {p : List Instr} (q : List Instr) {s t : State} (h : runInstrs p s = .next t) :
    runInstrs (p ++ q) s = runInstrs q t := by
  induction p generalizing s with
  | nil =>
    obtain rfl : s = t := by simpa [runInstrs] using h
    rfl
  | cons i p ih =>
    obtain ⟨u, hu, -⟩ := exec_answers i s
    rw [runInstrs_cons_of_exec p hu] at h
    rw [List.cons_append, runInstrs_cons_of_exec (p ++ q) hu, ih h]

/-- A push row pushes its bytes and answers OK (46_streaming.md R204). -/
theorem exec_of_isPush {i : Instr} (s : State) (h : isPush i = true) :
    exec i s = .next ((pushBytes cfg (bytesOf i) s).respond true 0) := by
  cases i with
  | push1 b0 => exact exec_push1 b0 s
  | push2 b0 b1 => exact exec_push2 b0 b1 s
  | push4 b0 b1 b2 b3 => exact exec_push4 b0 b1 b2 b3 s
  | _ => simp [isPush] at h

/-- A run of pushes pushes the bytes of its message in order, in whatever grouping, and gives an OK response to each transaction. -/
theorem runInstrs_of_pushes {p : List Instr} (s : State) (h : ∀ i ∈ p, isPush i = true) :
    runInstrs p s = .next { pushBytes cfg (messageOf p) s with
      responses := s.responses ++ List.replicate p.length ⟨true, 0⟩ } := by
  induction p generalizing s with
  | nil => simp [runInstrs, messageOf]
  | cons i p ih =>
    obtain ⟨hi, hp⟩ := List.forall_mem_cons.mp h
    have hmessage : messageOf (i :: p) = bytesOf i ++ messageOf p := List.flatMap_cons
    rw [runInstrs_cons_of_exec p (exec_of_isPush s hi), ih _ hp, hmessage, pushBytes_append, State.respond,
      pushBytes_with_responses, pushBytes_responses]
    simp [List.replicate_succ]

end Sys2Proof.Machine

/-! ## Streaming and the one-shot operation give NLCHash (47_oneshot_pair.md R230, R232, R233) -/

namespace Sys2Proof.Machine

/-! ### Streaming -/

/-- In FRESH and ACCUM a byte is only counted: there is no countdown. -/
theorem pushByte_of_streaming (C : Cfg) (b : Byte) {s : State} (hp : s.phase = .fresh ∨ s.phase = .accum) :
    pushByte C b s = countByte C b s := by
  obtain ⟨hfinalized, hfatal, hpair⟩ : s.phase ≠ .finalized ∧ s.phase ≠ .fatal ∧ s.phase ≠ .pair := by
    rcases hp with hp | hp <;> simp [hp]
  have hcounted : (countByte C b s).phase ≠ .oneshot := by
    rw [countByte_phase_of_not_pair C b hpair]
    rcases hp with hp | hp <;> simp [hp]
  rw [pushByte_of_open C b s hfinalized hfatal, countDown_of_not_oneshot C _ hcounted]

/-- In FRESH and ACCUM pushed bytes are absorbed one after the other, and the phase stays one of the two. -/
theorem Absorbed.pushBytes_streaming {C : Cfg} {m : List Byte} {s : State} (hs : Absorbed C m s)
    (hp : s.phase = .fresh ∨ s.phase = .accum) (bs : List Byte) :
    Absorbed C (m ++ bs) (pushBytes C bs s) ∧
      ((pushBytes C bs s).phase = .fresh ∨ (pushBytes C bs s).phase = .accum) := by
  induction bs generalizing m s with
  | nil => simpa using ⟨hs, hp⟩
  | cons b bs ih =>
    have hpair : s.phase ≠ .pair := by rcases hp with hp | hp <;> simp [hp]
    have hpushed : Absorbed C (m ++ [b]) (pushByte C b s) := by
      rw [pushByte_of_streaming C b hp]
      exact hs.countByte b hpair
    simpa using ih hpushed (.inr (pushByte_phase_of_streaming C b hp))

/-- Before the first byte of a message the core has absorbed nothing (10_state.md R36). -/
theorem Inv.absorbed_nil {C : Cfg} {s : State} (hinv : Inv C s) (hp : s.phase = .fresh) : Absorbed C [] s := by
  obtain ⟨hlen, hcount, hqmix, hh, -, -⟩ := hinv.fresh hp
  exact Machine.absorbed_nil hh hqmix hlen hcount

/-- FINAL in FRESH and ACCUM gives the digest of what was absorbed (46_streaming.md R211). -/
theorem Absorbed.runCommand_final {C : Cfg} {m : List Byte} {s : State} (hs : Absorbed C m s)
    (hp : s.phase = .fresh ∨ s.phase = .accum) : Digested C m (runCommand C .final s) := by
  have hlegal : commandLegal .final s.phase = true := by rcases hp with hp | hp <;> rw [hp] <;> rfl
  rw [runCommand_of_legal C .final s hlegal]
  exact hs.finalize

/-- Settles O42: the pushes absorb the message from FRESH, whatever their grouping, and FINAL gives the digest of it. The bound
on the length is not needed, since `LEN` and the length field wrap alike. -/
theorem streamingGivesNlcHash : Obligations.StreamingGivesNlcHash := by
  refine ⟨fun p s hinv hp hpush _ => ?_, fun C m s hinv hp _ => ?_⟩
  · obtain ⟨habsorbed, hphase⟩ := (hinv.absorbed_nil hp).pushBytes_streaming (.inl hp) (messageOf p)
    have hdone :=
      (habsorbed.with_responses (s.responses ++ List.replicate p.length ⟨true, 0⟩)).runCommand_final hphase
    have hrun := runInstrs_append_of_run [.cmdFinal] (runInstrs_of_pushes s hpush)
    exact ⟨_, hrun, hdone.out, hdone.phase, hdone.dvalid, hdone.len⟩
  · obtain ⟨habsorbed, hphase⟩ := (hinv.absorbed_nil hp).pushBytes_streaming (.inl hp) m
    exact (habsorbed.runCommand_final hphase).out

/-! ### The one-shot operation -/

/-- An accepted byte raises no error. -/
theorem pushByte_err_of_open (C : Cfg) (b : Byte) {s : State} (hfinalized : s.phase ≠ .finalized)
    (hfatal : s.phase ≠ .fatal) : (pushByte C b s).err = s.err := by
  obtain ⟨-, -, hdown, -⟩ := countDown_frame C (countByte C b s)
  obtain ⟨-, -, hcounted, -⟩ := countByte_frame C b s
  rw [pushByte_of_open C b s hfinalized hfatal, hdown, hcounted]

/-- In ONESHOT a byte that is not the last announced one is absorbed and counted down. -/
theorem Absorbed.pushByte_oneshot_more {C : Cfg} {m : List Byte} {s : State} (hs : Absorbed C m s) (b : Byte)
    (hp : s.phase = .oneshot) (hr : 1 < s.rem.toNat) :
    Absorbed C (m ++ [b]) (pushByte C b s) ∧ (pushByte C b s).rem.toNat = s.rem.toNat - 1 := by
  obtain ⟨hpush, hphase, hrem⟩ := pushByte_of_oneshot C b hp
  have hdown : (s.rem - 1).toNat = s.rem.toNat - 1 := by
    rw [BitVec.toNat_sub_of_le (by bv_omega)]
    rfl
  have hmore : (Machine.countByte C b s).rem - 1 ≠ 0 := by
    rw [hrem, Ne, count_sub_one_eq_zero_iff]
    intro hone
    simp [hone] at hr
  rw [hpush, countDown_of_more C _ hphase hmore, hrem]
  exact ⟨(hs.countByte b (by simp [hp])).with_rem _, hdown⟩

/-- In ONESHOT the last announced byte completes the message and its digest. -/
theorem Absorbed.pushByte_oneshot_last {C : Cfg} {m : List Byte} {s : State} (hs : Absorbed C m s) (b : Byte)
    (hp : s.phase = .oneshot) (hr : s.rem = 1) :
    Digested C (m ++ [b]) (pushByte C b s) ∧ (pushByte C b s).rem = 0 := by
  obtain ⟨hpush, hphase, hrem⟩ := pushByte_of_oneshot C b hp
  have hlast : (Machine.countByte C b s).rem - 1 = 0 := by rw [hrem, count_sub_one_eq_zero_iff, hr]
  rw [hpush, countDown_of_last C _ hphase hlast]
  exact ⟨((hs.countByte b (by simp [hp])).with_rem _).finalize, finalize_rem C _⟩

/-- In ONESHOT the bytes still announced complete the message and its digest, with no error. -/
theorem Absorbed.pushBytes_oneshot {C : Cfg} {m : List Byte} {s : State} (hs : Absorbed C m s) (hp : s.phase = .oneshot)
    {bs : List Byte} (hne : bs ≠ []) (hr : s.rem.toNat = bs.length) :
    Digested C (m ++ bs) (pushBytes C bs s) ∧ (pushBytes C bs s).rem = 0 ∧ (pushBytes C bs s).err = s.err := by
  induction bs generalizing m s with
  | nil => exact absurd rfl hne
  | cons b bs ih =>
    have herr : (pushByte C b s).err = s.err := pushByte_err_of_open C b (by simp [hp]) (by simp [hp])
    by_cases hlast : bs = []
    · subst hlast
      obtain ⟨hdone, hrem⟩ := hs.pushByte_oneshot_last b hp (BitVec.eq_of_toNat_eq hr)
      exact ⟨hdone, hrem, herr⟩
    · have hlength := List.length_pos_of_ne_nil hlast
      rw [List.length_cons] at hr
      obtain ⟨habsorbed, hrem⟩ := hs.pushByte_oneshot_more b hp (by omega)
      have hphase := pushByte_phase_of_oneshot_more C b hp (by omega)
      simpa [herr] using ih habsorbed hphase hlast (by omega)

/-- HASH and the announced bytes of a message give its digest, with no error (47_oneshot_pair.md R232). -/
theorem hashCommand_pushBytes_digested (C : Cfg) (m : List Byte) (s : State) (hlen : s.arg.toNat = m.length) :
    Digested C m (pushBytes C m (hashCommand C s)) ∧ (pushBytes C m (hashCommand C s)).rem = 0 ∧
      (pushBytes C m (hashCommand C s)).err = s.err := by
  by_cases hempty : m = []
  · subst hempty
    rw [pushBytes_nil, hashCommand_of_empty C s (BitVec.eq_of_toNat_eq hlen)]
    exact ⟨(absorbed_nil rfl rfl rfl rfl).finalize, finalize_rem C _, finalize_err C _⟩
  · have harg : s.arg ≠ 0 := by
      intro hzero
      rw [hzero] at hlen
      exact hempty (List.eq_nil_of_length_eq_zero hlen.symm)
    have hstart : Absorbed C [] { softReset C s with rem := s.arg, phase := .oneshot } := absorbed_nil rfl rfl rfl rfl
    rw [hashCommand_of_length C s harg]
    exact hstart.pushBytes_oneshot rfl hempty hlen

theorem exec_cmdHash_of_legal {s : State} (hp : s.phase = .fresh ∨ s.phase = .finalized) :
    exec .cmdHash s = .next ((hashCommand cfg s).respond true 0) := by
  have hlegal : commandLegal .hash s.phase = true := by rcases hp with hp | hp <;> rw [hp] <;> rfl
  rw [exec_cmdHash, runCommand_of_legal cfg .hash s hlegal]
  rfl

/-- Settles O43: HASH starts the message and announces its length, each byte is absorbed and counted down, and the last one
finalises. -/
theorem oneShotGivesNlcHash : Obligations.OneShotGivesNlcHash := by
  intro p s hp hpush harg
  obtain ⟨hdone, hrem, herr⟩ := hashCommand_pushBytes_digested cfg (messageOf p) s harg
  have hlen : BitVec.ofNat 64 (messageOf p).length = s.arg := by rw [← harg, BitVec.ofNat_toNat, BitVec.setWidth_eq]
  have hrun := runInstrs_of_pushes ((hashCommand cfg s).respond true 0) hpush
  rw [State.respond, pushBytes_with_responses] at hrun
  exact ⟨_, (runInstrs_cons_of_exec p (exec_cmdHash_of_legal hp)).trans hrun, hdone.out, hdone.phase, hdone.dvalid, hrem,
    hdone.len.trans hlen, herr⟩

end Sys2Proof.Machine

/-! ## Words that are no command (30_encoding.md R85, R87; 60_exceptions.md R272) -/

namespace Sys2Proof.Machine

/-- A command word with its reserved bits 31:8 clear is its opcode (30_encoding.md R85). -/
theorem word_eq_opcode {v : Word} (hreserved : v.extractLsb' 8 24 = 0) : v = (v.extractLsb' 0 8).setWidth 32 := by
  rw [← BitVec.toNat_inj, BitVec.extractLsb'_toNat, Nat.shiftRight_eq_div_pow] at hreserved
  apply BitVec.eq_of_toNat_eq
  rw [BitVec.toNat_setWidth, BitVec.extractLsb'_toNat, Nat.shiftRight_zero]
  bv_omega

/-- Either the reserved bits refuse the word, or it is its opcode and differs from each of the five (30_encoding.md R85, R87). -/
theorem commandOf_eq_none {v : Word} (h1 : v ≠ 1) (h2 : v ≠ 2) (h3 : v ≠ 3) (h4 : v ≠ 4) (h5 : v ≠ 5) :
    commandOf v = none := by
  by_cases hreserved : v.extractLsb' 8 24 = 0
  · have hopcode (op : BitVec 8) (hne : v ≠ op.setWidth 32) : v.extractLsb' 0 8 ≠ op := by
      rintro rfl
      exact hne (word_eq_opcode hreserved)
    rw [commandOf, if_neg (not_not.mpr hreserved), if_neg (hopcode 1 h1), if_neg (hopcode 2 h2), if_neg (hopcode 3 h3),
      if_neg (hopcode 4 h4), if_neg (hopcode 5 h5)]
  · exact if_pos hreserved

/-- Settles O30: the write is admitted at `CMD`, and its word is refused before the phase is looked at. -/
theorem nonCommandWordsAreIllegal : Obligations.NonCommandWordsAreIllegal := by
  intro s v h1 h2 h3 h4 h5
  rw [exec_wr4, busWrite_cmd, writeCommand_of_not_command cfg s (commandOf_eq_none h1 h2 h3 h4 h5)]
  rfl

end Sys2Proof.Machine

/-! ## Encoding and decoding are inverse (30_encoding.md R81, R82, R88) -/

namespace Sys2Proof

/-! ### The decoder on an assembled word -/

theorem decode_txWord_read {sz : BitVec 2} (off : Offset) (hsz : sz ≠ 3) :
    decode (txWord 0 sz off 0) = .ok (decodeRead sz off) := by
  simp [decode, show ¬ sz = 3#2 from hsz]

theorem decode_txWord_write {sz : BitVec 2} (off : Offset) (data : Word) (hsz : sz ≠ 3) :
    decode (txWord 1 sz off data) = decodeWrite sz off data := by
  simp [decode, show ¬ sz = 3#2 from hsz]

/-- The bits above a zero-extended value are 0. -/
theorem extractLsb'_setWidth_high {n k : Nat} (v : BitVec n) : (v.setWidth 32).extractLsb' n k = 0 := by
  apply BitVec.eq_of_getLsbD_eq
  intro i hi
  simp [hi]

theorem extractLsb'_setWidth_low {n : Nat} (v : BitVec n) (h : n ≤ 32) : (v.setWidth 32).extractLsb' 0 n = v := by
  rw [BitVec.extractLsb'_setWidth_of_le (by omega), BitVec.extractLsb'_eq_self]

/-- Data of one byte passes the width check and is read back (R82). -/
theorem decodeWrite_one (off : Offset) (v : BitVec 8) : decodeWrite 0 off (v.setWidth 32) = .ok (decodeWr1 off v) := by
  rw [decodeWrite, if_pos rfl, if_pos (extractLsb'_setWidth_high v), extractLsb'_setWidth_low v (by decide)]

/-- Data of two bytes passes the width check and is read back (R82). -/
theorem decodeWrite_two (off : Offset) (v : BitVec 16) : decodeWrite 1 off (v.setWidth 32) = .ok (decodeWr2 off v) := by
  rw [decodeWrite, if_neg (by decide), if_pos rfl, if_pos (extractLsb'_setWidth_high v),
    extractLsb'_setWidth_low v (by decide)]

theorem decodeWrite_four (off : Offset) (data : Word) : decodeWrite 2 off data = .ok (decodeWr4 off data) := rfl

/-! ### Rows and their operands -/

theorem decodeWr1_of_ne {off : Offset} (v : BitVec 8) (h : off ≠ offMsg) : decodeWr1 off v = .wr1 off v := if_neg h

theorem decodeWr2_of_ne {off : Offset} (v : BitVec 16) (h : off ≠ offMsg) : decodeWr2 off v = .wr2 off v := if_neg h

/-- A word that is no refinement row's is decoded as its base row (R88). -/
theorem decodeWr4_of_base {off : Offset} {v : BitVec 32} (h : refinesWr4 off v = false) : decodeWr4 off v = .wr4 off v := by
  simp only [refinesWr4, Bool.or_eq_false_iff, Bool.and_eq_false_imp, beq_iff_eq, beq_eq_false_iff_ne] at h
  obtain ⟨⟨⟨hcmd, hmsg⟩, hlo⟩, hhi⟩ := h
  rw [decodeWr4, if_neg hmsg, if_neg hlo, if_neg hhi]
  split_ifs with heq
  · obtain ⟨⟨⟨⟨h1, h2⟩, h3⟩, h4⟩, h5⟩ := hcmd heq
    rw [decodeCmdWrite, if_neg h1, if_neg h2, if_neg h3, if_neg h4, if_neg h5, heq]
  · rfl

/-- The two bytes of a PUSH2 word, low byte first (20_memory.md R66). -/
theorem decodeWr2_msg (b0 b1 : Byte) : decodeWr2 offMsg (b1 ++ b0) = .push2 b0 b1 := by
  rw [decodeWr2, if_pos rfl, BitVec.extractLsb'_append_eq_right, BitVec.extractLsb'_append_eq_left]

/-- The four bytes of a PUSH4 word, low byte first (20_memory.md R66). -/
theorem decodeWr4_msg (b0 b1 b2 b3 : Byte) : decodeWr4 offMsg (b3 ++ b2 ++ b1 ++ b0) = .push4 b0 b1 b2 b3 := by
  have h0 : (b3 ++ b2 ++ b1 ++ b0).extractLsb' 0 8 = b0 := BitVec.extractLsb'_append_eq_right
  have h1 : (b3 ++ b2 ++ b1 ++ b0).extractLsb' 8 8 = b1 := by
    rw [BitVec.extractLsb'_append_eq_of_le (by decide)]
    exact BitVec.extractLsb'_append_eq_right
  have h2 : (b3 ++ b2 ++ b1 ++ b0).extractLsb' 16 8 = b2 := by
    iterate 2 rw [BitVec.extractLsb'_append_eq_of_le (by decide)]
    exact BitVec.extractLsb'_append_eq_right
  have h3 : (b3 ++ b2 ++ b1 ++ b0).extractLsb' 24 8 = b3 := by
    iterate 2 rw [BitVec.extractLsb'_append_eq_of_le (by decide)]
    exact BitVec.extractLsb'_append_eq_left
  rw [decodeWr4, if_neg (by decide), if_pos rfl, h0, h1, h2, h3]

/-- Settles O1, row by row: the decoder finds the fields of the assembled word, and the row from them; a base row at a
refinement row's word is the case that well-formedness excludes. -/
theorem encodeThenDecodeIsIdentity : Obligations.EncodeThenDecodeIsIdentity := by
  intro i hwf
  cases i with
  | rd1 off => exact decode_txWord_read off (by decide)
  | rd2 off => exact decode_txWord_read off (by decide)
  | rd4 off => exact decode_txWord_read off (by decide)
  | wr1 off v =>
    have hoff : off ≠ offMsg := by simpa [Instr.wellFormed] using hwf
    rw [encode, decode_txWord_write off _ (by decide), decodeWrite_one, decodeWr1_of_ne v hoff]
  | wr2 off v =>
    have hoff : off ≠ offMsg := by simpa [Instr.wellFormed] using hwf
    rw [encode, decode_txWord_write off _ (by decide), decodeWrite_two, decodeWr2_of_ne v hoff]
  | wr4 off v =>
    have hbase : refinesWr4 off v = false := by simpa [Instr.wellFormed] using hwf
    rw [encode, decode_txWord_write off _ (by decide), decodeWrite_four, decodeWr4_of_base hbase]
  | rst => decide
  | cmdReset => decide
  | cmdFinal => decide
  | cmdHash => decide
  | cmdPair => decide
  | cmdName => decide
  | push1 b0 => rw [encode, decode_txWord_write _ _ (by decide), decodeWrite_one, decodeWr1, if_pos rfl]
  | push2 b0 b1 => rw [encode, decode_txWord_write _ _ (by decide), decodeWrite_two, decodeWr2_msg]
  | push4 b0 b1 b2 b3 => rw [encode, decode_txWord_write _ _ (by decide), decodeWrite_four, decodeWr4_msg]
  | setargLo v => rw [encode, decode_txWord_write _ _ (by decide)]; rfl
  | setargHi v => rw [encode, decode_txWord_write _ _ (by decide)]; rfl

/-! ### The word of a decoded instruction -/

/-- A value whose upper part is 0 is its lower part, zero-extended. -/
theorem setWidth_extractLsb'_of_high_zero {k n : Nat} {v : Word} (h : v.extractLsb' n k = 0) (hw : n + k = 32) :
    (v.extractLsb' 0 n).setWidth 32 = v := by
  apply BitVec.eq_of_getLsbD_eq
  intro i hi
  have hbit := congrArg (BitVec.getLsbD · (i - n)) h
  rw [BitVec.getLsbD_setWidth, BitVec.getLsbD_extractLsb', Nat.zero_add]
  by_cases hlow : i < n
  · simp [hi, hlow]
  · simp only [BitVec.getLsbD_extractLsb', show i - n < k by omega, show n + (i - n) = i by omega] at hbit
    simpa [hi, hlow] using hbit.symm

theorem encode_decodeRead {sz : BitVec 2} (off : Offset) (hsz : sz ≠ 3) :
    encode (decodeRead sz off) = txWord 0 sz off 0 := by
  unfold decodeRead
  split_ifs with hone htwo
  · rw [hone, encode]
  · rw [htwo, encode]
  · rw [show sz = 2 by bv_omega, encode]

theorem encode_decodeWr1 (off : Offset) (v : BitVec 8) : encode (decodeWr1 off v) = txWord 1 0 off (v.setWidth 32) := by
  unfold decodeWr1
  split_ifs with hmsg
  · rw [hmsg, encode]
  · rw [encode]

theorem encode_decodeWr2 (off : Offset) (v : BitVec 16) : encode (decodeWr2 off v) = txWord 1 1 off (v.setWidth 32) := by
  unfold decodeWr2
  split_ifs with hmsg
  · rw [hmsg, encode, BitVec.extractLsb'_append_extractLsb'_eq_extractLsb' (by decide), BitVec.extractLsb'_eq_self]
  · rw [encode]

theorem encode_decodeCmdWrite (v : Word) : encode (decodeCmdWrite v) = txWord 1 2 offCmd v := by
  unfold decodeCmdWrite
  split_ifs with h1 h2 h3 h4 h5
  case neg => rw [encode]
  all_goals simp [encode, *]

theorem encode_decodeWr4 (off : Offset) (v : Word) : encode (decodeWr4 off v) = txWord 1 2 off v := by
  unfold decodeWr4
  split_ifs with hcmd hmsg hlo hhi
  · rw [hcmd, encode_decodeCmdWrite]
  · rw [hmsg, encode]
    iterate 3 rw [BitVec.extractLsb'_append_extractLsb'_eq_extractLsb' (by decide)]
    rw [BitVec.extractLsb'_eq_self]
  · rw [hlo, encode]
  · rw [hhi, encode]
  · rw [encode]

/-- A bare word of KIND 2 is the word of RST (R81). -/
theorem txWord_of_rst {w : TxWord} (hkind : txKind w = 2) (hbare : w.extractLsb' 0 62 = 0) : w = encode .rst := by
  have hparts : w.extractLsb' 62 2 ++ w.extractLsb' 0 62 = w.extractLsb' 0 64 :=
    BitVec.extractLsb'_append_extractLsb'_eq_extractLsb' rfl
  rw [← BitVec.extractLsb'_eq_self (x := w), ← hparts, hbare, ← txKind, hkind]
  rfl

theorem encode_of_decodeWrite {sz : BitVec 2} {off : Offset} {data : Word} {i : Instr} (hsz : sz ≠ 3)
    (h : decodeWrite sz off data = .ok i) : encode i = txWord 1 sz off data := by
  obtain ⟨rfl, hnarrow, rfl⟩ | ⟨rfl, hnarrow, rfl⟩ | ⟨hone, htwo, rfl⟩ := decodeWrite_ok_cases h
  · rw [encode_decodeWr1, setWidth_extractLsb'_of_high_zero hnarrow rfl]
  · rw [encode_decodeWr2, setWidth_extractLsb'_of_high_zero hnarrow rfl]
  · rw [encode_decodeWr4, show sz = 2 by bv_omega]

theorem encode_of_decode {w : TxWord} {i : Instr} (h : decode w = .ok i) : encode i = w := by
  obtain ⟨hkind, hbare, rfl⟩ | ⟨hkind, hsz, hrsv, hdata, rfl⟩ | ⟨hkind, hsz, hrsv, hwrite⟩ := decode_ok_cases h
  · exact (txWord_of_rst hkind hbare).symm
  · rw [encode_decodeRead _ hsz, ← hkind, ← hdata, txWord_of_fields w hrsv]
  · rw [encode_of_decodeWrite hsz hwrite, ← hkind, txWord_of_fields w hrsv]

/-- Settles O2: each way a word is accepted gives a row whose word has the fields of the decoded one, and a word with RSV zero
is assembled from its fields. -/
theorem decodedInstructionReencodesToItsWord : Obligations.DecodedInstructionReencodesToItsWord :=
  fun _ _ h => ⟨decode_wellFormed h, encode_of_decode h⟩

/-! ### The fixed bits of the rows -/

/-- The word of every instruction has the bits its row fixes (R88). -/
theorem encode_row (i : Instr) : encode i &&& i.row.mask = i.row.value := by
  cases i with
  | rd1 off => exact Laws.EncodingRow.rd1 off
  | rd2 off => exact Laws.EncodingRow.rd2 off
  | rd4 off => exact Laws.EncodingRow.rd4 off
  | wr1 off v => exact Laws.EncodingRow.wr1 off v
  | wr2 off v => exact Laws.EncodingRow.wr2 off v
  | wr4 off v => exact Laws.EncodingRow.wr4 off v
  | rst => exact Laws.EncodingRow.rst
  | cmdReset => exact Laws.EncodingRow.cmdReset
  | cmdFinal => exact Laws.EncodingRow.cmdFinal
  | cmdHash => exact Laws.EncodingRow.cmdHash
  | cmdPair => exact Laws.EncodingRow.cmdPair
  | cmdName => exact Laws.EncodingRow.cmdName
  | push1 b0 => exact Laws.EncodingRow.push1 b0
  | push2 b0 b1 => exact Laws.EncodingRow.push2 b0 b1
  | push4 b0 b1 b2 b3 => exact Laws.EncodingRow.push4 b0 b1 b2 b3
  | setargLo v => exact Laws.EncodingRow.setargLo v
  | setargHi v => exact Laws.EncodingRow.setargHi v

/-- Settles O4: a decoded word is the word of its instruction, which has the fixed bits of its row. -/
theorem decodedWordHasItsRowsFixedBits : Obligations.DecodedWordHasItsRowsFixedBits := by
  intro w i h
  rw [← encode_of_decode h]
  exact encode_row i

/-- Settles O5, word by word. -/
theorem sampleWordsDecodeAsTheTableSays : Obligations.SampleWordsDecodeAsTheTableSays := by
  refine ⟨?_, ?_, ?_, ?_, ?_, ?_, ?_, ?_, ?_⟩ <;> decide

end Sys2Proof

namespace Sys2Proof.Machine

/-- Settles O6: each of the five words carries its opcode, and any other word is refused. -/
theorem commandWordsAreOneToFive : Obligations.CommandWordsAreOneToFive := by
  intro v
  split_ifs with h1 h2 h3 h4 h5
  · rw [h1]; decide
  · rw [h2]; decide
  · rw [h3]; decide
  · rw [h4]; decide
  · rw [h5]; decide
  · exact commandOf_eq_none h1 h2 h3 h4 h5

end Sys2Proof.Machine

/-! ## Every row is one transaction of the configurable machine (30_encoding.md R80, R88; 00_scope.md R3) -/

namespace Sys2Proof.Machine

/-! ### The three other writable rows (20_memory.md R57) -/

theorem busWrite_msg (C : Cfg) (n : Size) (v : Word) (s : State) :
    busWrite C n offMsg v s = (pushBytes C (dataBytes (sizeBytes n) v) s).respond true 0 := by
  have hadm : admitted .write n offMsg = some .msg := by cases n <;> exact admitted_of_regAdmits (by decide)
  rw [busWrite, hadm]

theorem busWrite_argLo (C : Cfg) (v : Word) (s : State) :
    busWrite C .four offArgLo v s = (setArgLo v s).respond true 0 := by
  have hadm : admitted .write .four offArgLo = some .argLo := admitted_of_regAdmits (by decide)
  rw [busWrite, hadm]

theorem busWrite_argHi (C : Cfg) (v : Word) (s : State) :
    busWrite C .four offArgHi v s = (setArgHi v s).respond true 0 := by
  have hadm : admitted .write .four offArgHi = some .argHi := admitted_of_regAdmits (by decide)
  rw [busWrite, hadm]

theorem busWrite_command (C : Cfg) {v : Word} {c : Command} (s : State) (h : commandOf v = some c) :
    busWrite C .four offCmd v s = (runCommand C c s).respond true 0 := by
  rw [← writeCommand_of_command C s h]
  exact busWrite_cmd C v s

/-! ### exec and step are the configurable machine at `cfg` -/

theorem exec_eq_perform (i : Instr) (s : State) : exec i s = .next (perform cfg (txnOf i) s) := by
  cases i with
  | rd1 | rd2 | rd4 | wr1 | wr2 | wr4 | rst => rfl
  | cmdReset => rw [exec_cmdReset, txnOf, perform, busWrite_command cfg s (c := .reset) (by decide)]
  | cmdFinal => rw [exec_cmdFinal, txnOf, perform, busWrite_command cfg s (c := .final) (by decide)]
  | cmdHash => rw [exec_cmdHash, txnOf, perform, busWrite_command cfg s (c := .hash) (by decide)]
  | cmdPair => rw [exec_cmdPair, txnOf, perform, busWrite_command cfg s (c := .pair) (by decide)]
  | cmdName => rw [exec_cmdName, txnOf, perform, busWrite_command cfg s (c := .name) (by decide)]
  | push1 b0 => rw [exec_push1, txnOf, perform, busWrite_msg, sizeBytes, dataBytes_one]
  | push2 b0 b1 => rw [exec_push2, txnOf, perform, busWrite_msg, sizeBytes, dataBytes_two]
  | push4 b0 b1 b2 b3 => rw [exec_push4, txnOf, perform, busWrite_msg, sizeBytes, dataBytes_four]
  | setargLo v => rw [exec_setargLo, txnOf, perform, busWrite_argLo]
  | setargHi v => rw [exec_setargHi, txnOf, perform, busWrite_argHi]

/-- The state after an instruction, named. -/
theorem eq_perform_of_exec {i : Instr} {s t : State} (h : exec i s = .next t) : t = perform cfg (txnOf i) s := by
  rw [exec_eq_perform] at h
  exact (Host.Outcome.next.inj h).symm

theorem step_of_decode_ok {s : State} {w : TxWord} {rest : List TxWord} {i : Instr} (hinbox : s.inbox = w :: rest)
    (hok : decode w = .ok i) : step s = exec i (taken rest s) := by
  simp [step, hinbox, hok]

theorem step_of_empty {s : State} (hinbox : s.inbox = []) : step s = .next s := by
  simp [step, hinbox]

theorem performWord_of_decode_ok (C : Cfg) {w : TxWord} {i : Instr} (s : State) (hok : decode w = .ok i) :
    performWord C w s = perform C (txnOf i) s := by
  simp [performWord, hok]

theorem performWord_of_decode_error (C : Cfg) {w : TxWord} {m : Malformed} (s : State) (herr : decode w = .error m) :
    performWord C w s = busError s := by
  simp [performWord, herr]

theorem step_eq_performWord {s : State} {w : TxWord} {rest : List TxWord} (hinbox : s.inbox = w :: rest) :
    step s = .next (performWord cfg w (taken rest s)) := by
  cases hdec : decode w with
  | ok i => rw [step_of_decode_ok hinbox hdec, exec_eq_perform, performWord_of_decode_ok cfg _ hdec]
  | error m => rw [step_of_decode_error hinbox hdec, performWord_of_decode_error cfg _ hdec]

/-- Settles O9: a refinement row is the write at its offset that its word is, and a step is one word of the machine at `cfg`. -/
theorem refinementRowsAreTheirBaseRows : Obligations.RefinementRowsAreTheirBaseRows :=
  ⟨exec_eq_perform, fun _ _ _ => step_eq_performWord⟩

/-- Settles O7: the two cases of the host's list. -/
theorem stepPerformsTheNextTransaction : Obligations.StepPerformsTheNextTransaction :=
  ⟨fun _ _ _ _ => step_of_decode_ok, fun _ => step_of_empty⟩

/-- The table bits of a whole word are the word (30_encoding.md R81: 64 bits). -/
theorem tableWord_toNat (w : TxWord) : tableWord 64 w.toNat = w := by
  rw [tableWord, Nat.mod_eq_of_lt w.isLt, BitVec.ofNat_toNat, BitVec.setWidth_eq]

/-- Settles O8: the placed word is the head of the list, and taking it off gives the state before it was placed. -/
theorem placedWordIsPerformedNext : Obligations.PlacedWordIsPerformedNext := by
  intro s w i hok
  refine ⟨?_, ?_⟩
  · rw [State.withFetchWord, tableWord_toNat, step_of_decode_ok rfl hok]
    rfl
  · rw [decodeTableWord, if_pos (by decide), ← tableWord, tableWord_toNat, hok]
    rfl

/-- Settles O10: every instruction is a transaction of the machine at `cfg`, and so is every word. -/
theorem everyStepAnswersANextState : Obligations.EveryStepAnswersANextState := by
  refine ⟨fun i s => ⟨_, exec_eq_perform i s⟩, fun s => ?_⟩
  cases hinbox : s.inbox with
  | nil => exact ⟨s, step_of_empty hinbox⟩
  | cons w rest => exact ⟨_, step_eq_performWord hinbox⟩

/-! ### Responses -/

/-- A write answers a bus error, or OK with data 0 (30_encoding.md R84). -/
theorem busWrite_responses (C : Cfg) (n : Size) (off : Offset) (v : Word) (s : State) :
    busWrite C n off v s = busError s ∨ (busWrite C n off v s).responses = s.responses ++ [⟨true, 0⟩] := by
  obtain heq | ⟨-, heq⟩ | ⟨-, heq⟩ | ⟨-, heq⟩ | ⟨-, heq⟩ := busWrite_cases C n off v s
  · exact .inl heq
  · exact .inr (by rw [heq]; rfl)
  · exact .inr (by rw [heq]; rfl)
  · exact .inr (by rw [heq, respond_responses, writeCommand_responses])
  · exact .inr (by rw [heq, respond_responses, pushBytes_responses])

theorem isRead_of_txnOf {i : Instr} {n : Size} {off : Offset} (h : txnOf i = .read n off) :
    i = .rd1 off ∨ i = .rd2 off ∨ i = .rd4 off := by
  cases i <;> simp_all [txnOf]

/-- Settles O11: a bus error is the only error response, and only a read answers data. -/
theorem everyTransactionYieldsOneResponse : Obligations.EveryTransactionYieldsOneResponse := by
  intro i s t hexec
  have hbus : t = busError s → ∃ r : Response, t.responses = s.responses ++ [r] ∧
      ((∀ off, i ≠ .rd1 off ∧ i ≠ .rd2 off ∧ i ≠ .rd4 off) → r.rdata = 0) ∧
      (r.ok = false → r.rdata = 0 ∧ t = { s with err := s.err ||| 0x4, responses := s.responses ++ [⟨false, 0⟩] }) := by
    rintro rfl
    exact ⟨⟨false, 0⟩, rfl, fun _ => rfl, fun _ => ⟨rfl, rfl⟩⟩
  obtain rfl := eq_perform_of_exec hexec
  cases htxn : txnOf i with
  | read n off =>
    rw [htxn] at hbus
    obtain heq | ⟨v, hok⟩ := answers_busRead cfg n off s
    · exact hbus heq
    · have hread := isRead_of_txnOf htxn
      refine ⟨⟨true, v⟩, hok, fun hnot => ?_, fun hfalse => absurd hfalse (by simp)⟩
      obtain ⟨h1, h2, h4⟩ := hnot off
      exact absurd hread (by simp [h1, h2, h4])
  | write n off v =>
    rw [htxn] at hbus
    obtain heq | hok := busWrite_responses cfg n off v s
    · exact hbus heq
    · exact ⟨⟨true, 0⟩, hok, fun _ => rfl, fun hfalse => absurd hfalse (by simp)⟩
  | rst => exact ⟨⟨true, 0⟩, rfl, fun _ => rfl, fun hfalse => absurd hfalse (by simp)⟩

end Sys2Proof.Machine

/-! ## What a transaction can do to ERR, ST and PHASE (60_exceptions.md R270, R276; 48_selftest.md R255) -/

namespace Sys2Proof.Machine

/-! ### Everything a transaction can do -/

/-- What holds of each outcome of a transaction holds after it: a bus error, an answered read, a written half of `ARG`, a word that
is no command, a command, pushed bytes, or the hardware reset (20_memory.md R55 to R57, 30_encoding.md R85). -/
theorem perform_of_cases {P : State → Prop} (C : Cfg) (t : Txn) (s : State)
    (bus : P (busError s)) (read : ∀ v, P (s.respond true v))
    (argLo : ∀ v, P ((setArgLo v s).respond true 0)) (argHi : ∀ v, P ((setArgHi v s).respond true 0))
    (illcmd : P ((s.raise .illcmd).respond true 0)) (command : ∀ c, P ((runCommand C c s).respond true 0))
    (push : ∀ bs, P ((pushBytes C bs s).respond true 0)) (rst : t = .rst → P (rstTransaction C s)) :
    P (perform C t s) := by
  cases t with
  | read n off =>
    change P (busRead C n off s)
    obtain ⟨-, heq⟩ | ⟨r, -, heq⟩ := busRead_cases C n off s <;> rw [heq]
    · exact bus
    · exact read _
  | write n off v =>
    change P (busWrite C n off v s)
    obtain heq | ⟨-, heq⟩ | ⟨-, heq⟩ | ⟨-, heq⟩ | ⟨-, heq⟩ := busWrite_cases C n off v s <;> rw [heq]
    · exact bus
    · exact argLo v
    · exact argHi v
    · cases hcmd : commandOf v with
      | none => exact writeCommand_of_not_command C s hcmd ▸ illcmd
      | some c => exact writeCommand_of_command C s hcmd ▸ command c
    · exact push _
  | rst => exact rst rfl

/-! ### Pushes after the end, and pushes that raise no error -/

/-- Setting a bit of `ERR` twice is setting it once (10_state.md R34). -/
theorem raise_raise (b : ErrBit) (s : State) : (s.raise b).raise b = s.raise b := by
  simp only [State.raise, BitVec.or_assoc, BitVec.or_self]

/-- In FINALIZED and FATAL all bytes of a list are dropped, with one Err(SEQ) for the first (46_streaming.md R205). -/
theorem pushBytes_of_closed (C : Cfg) (b : Byte) (bs : List Byte) {s : State} (h : s.phase = .finalized ∨ s.phase = .fatal) :
    pushBytes C (b :: bs) s = s.raise .seq := by
  induction bs generalizing b s with
  | nil => exact pushByte_of_closed C b s h
  | cons b' bs ih =>
    rw [pushBytes_cons, pushByte_of_closed C b s h, ih b' (s := s.raise .seq) h, raise_raise]

/-- In FRESH and ACCUM no push raises an error, and the phase stays one of the two. -/
theorem pushBytes_of_streaming (C : Cfg) (bs : List Byte) {s : State} (hp : s.phase = .fresh ∨ s.phase = .accum) :
    (pushBytes C bs s).err = s.err ∧ ((pushBytes C bs s).phase = .fresh ∨ (pushBytes C bs s).phase = .accum) := by
  induction bs generalizing s with
  | nil => exact ⟨rfl, hp⟩
  | cons b bs ih =>
    have herr : (pushByte C b s).err = s.err :=
      pushByte_err_of_open C b (by rcases hp with hp | hp <;> simp [hp]) (by rcases hp with hp | hp <;> simp [hp])
    obtain ⟨hrest, hphase⟩ := ih (.inr (pushByte_phase_of_streaming C b hp))
    exact ⟨hrest.trans herr, hphase⟩

/-! ### Commands -/

@[simp] theorem finalize_arg (C : Cfg) (s : State) : (finalize C s).arg = s.arg := by
  obtain ⟨h, q, nf, b, heq⟩ := finalize_eq C s
  rw [heq]

@[simp] theorem finalize_st (C : Cfg) (s : State) : (finalize C s).st = s.st := by
  obtain ⟨h, q, nf, b, heq⟩ := finalize_eq C s
  rw [heq]

@[simp] theorem finalize_bufcnt (C : Cfg) (s : State) : (finalize C s).bufcnt = 0 := by
  obtain ⟨h, q, nf, b, heq⟩ := finalize_eq C s
  rw [heq]

@[simp] theorem finalize_inbox (C : Cfg) (s : State) : (finalize C s).inbox = s.inbox := by
  obtain ⟨h, q, nf, b, heq⟩ := finalize_eq C s
  rw [heq]

@[simp] theorem finalize_rstCount (C : Cfg) (s : State) : (finalize C s).rstCount = s.rstCount := by
  obtain ⟨h, q, nf, b, heq⟩ := finalize_eq C s
  rw [heq]

/-- What the self-test run leaves alone: its pushes are all accepted (48_selftest.md R253). -/
theorem selfTestRun_frame (C : Cfg) (s : State) :
    (selfTestRun C s).arg = s.arg ∧ (selfTestRun C s).err = s.err ∧ (selfTestRun C s).inbox = s.inbox ∧
    (selfTestRun C s).responses = s.responses ∧ (selfTestRun C s).rstCount = s.rstCount := by
  obtain ⟨harg, -, hinbox, hresp, hcount, -⟩ := pushBytes_frame C stMsg { softReset C s with phase := .fresh }
  obtain ⟨herr, -⟩ := pushBytes_of_streaming C stMsg (s := { softReset C s with phase := .fresh }) (.inl rfl)
  exact ⟨(finalize_arg C _).trans harg, (finalize_err C _).trans herr, (finalize_inbox C _).trans hinbox,
    (finalize_responses C _).trans hresp, (finalize_rstCount C _).trans hcount⟩

/-- Of `ERR` and `ST`, a legal command writes only what NAME writes: PASS, or FAIL with the SELFTEST bit (48_selftest.md R253). -/
theorem commandEffect_err_st (C : Cfg) (c : Command) (s : State) :
    ((commandEffect C c s).err = s.err ∧ ((commandEffect C c s).st = s.st ∨ (commandEffect C c s).st = .pass)) ∨
    ((commandEffect C c s).err = s.err ||| errMask .selftest ∧ (commandEffect C c s).st = .fail) := by
  cases c with
  | reset => exact .inl ⟨rfl, .inl rfl⟩
  | final => exact .inl ⟨finalize_err C s, .inl (finalize_st C s)⟩
  | hash =>
    change ((hashCommand C s).err = _ ∧ ((hashCommand C s).st = _ ∨ (hashCommand C s).st = _)) ∨ _
    by_cases hempty : s.arg = 0
    · simp [hashCommand_of_empty C s hempty]
    · simp [hashCommand_of_length C s hempty]
  | pair =>
    change ((pairCommand C s).err = _ ∧ ((pairCommand C s).st = _ ∨ (pairCommand C s).st = _)) ∨ _
    by_cases hnone : s.arg = 0
    · simp [pairCommand_of_none C s hnone]
    · simp [pairCommand_of_count C s hnone]
  | name =>
    obtain ⟨-, herr, -⟩ := selfTestRun_frame C s
    change ((nameCommand C s).err = _ ∧ ((nameCommand C s).st = _ ∨ (nameCommand C s).st = _)) ∨
      ((nameCommand C s).err = _ ∧ (nameCommand C s).st = _)
    obtain ⟨-, heq⟩ | ⟨-, heq⟩ := nameCommand_cases C s
    · exact .inl (by simp [heq, herr])
    · exact .inr (by simp [heq, herr])

/-- One kind of error at most, and no way back to NOTRUN: what every transaction but RST keeps to (60_exceptions.md R276,
10_state.md R32, R34). -/
structure Sticky (s t : State) : Prop where
  err : t.err = s.err ∨ ∃ b, t.err = s.err ||| errMask b
  st : t.st = s.st ∨ t.st ≠ .notRun

theorem sticky_raise (b : ErrBit) (s : State) : Sticky s (s.raise b) := ⟨.inr ⟨b, rfl⟩, .inl rfl⟩

theorem Sticky.respond {s t : State} (h : Sticky s t) (ok : Bool) (v : Word) : Sticky s (t.respond ok v) := ⟨h.err, h.st⟩

theorem sticky_runCommand (C : Cfg) (c : Command) (s : State) : Sticky s (runCommand C c s) := by
  cases hlegal : commandLegal c s.phase with
  | false => exact runCommand_of_illegal C c s hlegal ▸ sticky_raise .seq s
  | true =>
    rw [runCommand_of_legal C c s hlegal]
    obtain ⟨herr, hst | hst⟩ | ⟨herr, hst⟩ := commandEffect_err_st C c s
    · exact ⟨.inl herr, .inl hst⟩
    · exact ⟨.inl herr, .inr (by simp [hst])⟩
    · exact ⟨.inr ⟨_, herr⟩, .inr (by simp [hst])⟩

theorem sticky_pushBytes (C : Cfg) (bs : List Byte) (s : State) : Sticky s (pushBytes C bs s) := by
  obtain ⟨-, hst, -, -, -, herr⟩ := pushBytes_frame C bs s
  exact ⟨herr.imp_right fun h => ⟨.seq, h⟩, .inl hst⟩

theorem sticky_perform (C : Cfg) {t : Txn} (s : State) (h : t ≠ .rst) : Sticky s (perform C t s) :=
  perform_of_cases C t s
    (bus := (sticky_raise .bus s).respond _ _)
    (read := fun _ => ⟨.inl rfl, .inl rfl⟩)
    (argLo := fun _ => ⟨.inl rfl, .inl rfl⟩)
    (argHi := fun _ => ⟨.inl rfl, .inl rfl⟩)
    (illcmd := (sticky_raise .illcmd s).respond _ _)
    (command := fun c => (sticky_runCommand C c s).respond _ _)
    (push := fun bs => (sticky_pushBytes C bs s).respond _ _)
    (rst := fun hrst => absurd hrst h)

theorem txnOf_ne_rst {i : Instr} (h : i ≠ .rst) : txnOf i ≠ .rst := by
  cases i <;> simp_all [txnOf]

/-- Settles O41: RST clears `ERR`, every other transaction is sticky. -/
theorem oneErrorKindPerTransaction : Obligations.OneErrorKindPerTransaction := by
  intro i s t hexec
  obtain rfl := eq_perform_of_exec hexec
  split_ifs with hrst
  · subst hrst
    rfl
  · exact (sticky_perform cfg s (txnOf_ne_rst hrst)).err

/-! ### FATAL -/

/-- A transaction in FATAL that is not RST: `ERR` and `ARG` are all of the core that it can change (48_selftest.md R255). -/
theorem perform_of_fatal (C : Cfg) {t : Txn} {s : State} (hp : s.phase = .fatal) (h : t ≠ .rst) :
    ∃ e a rs, perform C t s = { s with err := e, arg := a, responses := rs } := by
  refine perform_of_cases C t s (P := fun u => ∃ e a rs, u = { s with err := e, arg := a, responses := rs })
    (bus := ⟨_, _, _, rfl⟩) (read := fun _ => ⟨_, _, _, rfl⟩) (argLo := fun _ => ⟨_, _, _, rfl⟩)
    (argHi := fun _ => ⟨_, _, _, rfl⟩) (illcmd := ⟨_, _, _, rfl⟩) (command := fun c => ?_) (push := fun bs => ?_)
    (rst := fun hrst => absurd hrst h)
  · have hillegal : commandLegal c s.phase = false := by rw [hp]; cases c <;> rfl
    exact ⟨_, _, _, by rw [runCommand_of_illegal C c s hillegal]; rfl⟩
  · cases bs with
    | nil => exact ⟨_, _, _, rfl⟩
    | cons b bs => exact ⟨_, _, _, by rw [pushBytes_of_closed C b bs (.inr hp)]; rfl⟩

/-- A four-byte read of the window `NAME`, by the gated bytes (10_state.md R42). -/
theorem exec_rd4_name {s : State} {nameAt : Fin 16 → Byte}
    (hgate : ∀ i, nameAt i = if s.st = .pass then cfg.implName[i] else 0) (k : Fin 4) :
    exec (.rd4 (BitVec.ofNat 16 (0x80 + 4 * k.val))) s = .next (s.respond true
      (nameAt ⟨4 * k.val + 3, by omega⟩ ++ nameAt ⟨4 * k.val + 2, by omega⟩ ++ nameAt ⟨4 * k.val + 1, by omega⟩ ++
        nameAt ⟨4 * k.val, by omega⟩)) := by
  obtain ⟨hread, -⟩ := nameWindowIsGatedBySelfTest
  obtain ⟨-, -, hfour⟩ := hread cfg s nameAt hgate
  exact congrArg Host.Outcome.next (hfour k)

theorem exec_rd4_name_of_not_pass {s : State} (hst : s.st ≠ .pass) (k : Fin 4) :
    exec (.rd4 (BitVec.ofNat 16 (0x80 + 4 * k.val))) s = .next (s.respond true 0) :=
  exec_rd4_name (nameAt := fun _ => 0) (by simp [hst]) k

/-- Settles O40: what is left unchanged includes ST, which gates the window. -/
theorem fatalIsLeftOnlyByRst : Obligations.FatalIsLeftOnlyByRst := by
  intro i s hp hrst
  obtain ⟨e, a, rs, heq⟩ := perform_of_fatal cfg hp (txnOf_ne_rst hrst)
  refine ⟨_, exec_eq_perform i s, by rw [heq], fun hst k => ?_⟩
  rw [exec_rd4_name_of_not_pass (by simp [heq, hst])]
  rfl

/-- Settles O14: no bit of ERR is cleared by setting one, ST is written by NAME only, and FATAL is left by RST only. -/
theorem onlyRstClearsTheStickyRecords : Obligations.OnlyRstClearsTheStickyRecords := by
  intro i s t hrst hexec
  obtain rfl := eq_perform_of_exec hexec
  have hsticky := sticky_perform cfg s (txnOf_ne_rst hrst)
  refine ⟨fun k hk => ?_, fun hne => ?_, fun hp => ?_⟩
  · obtain herr | ⟨b, herr⟩ := hsticky.err
    · rw [herr, hk]
    · rw [herr, BitVec.getLsbD_or, hk, Bool.true_or]
  · obtain hst | hst := hsticky.st
    · rwa [hst]
    · exact hst
  · obtain ⟨e, a, rs, heq⟩ := perform_of_fatal cfg hp (txnOf_ne_rst hrst)
    rw [heq, hp]

/-- Settles O27: the first byte sets SEQ, and the bytes after it set it again. -/
theorem pushAfterTheEndIsRefused : Obligations.PushAfterTheEndIsRefused := by
  intro s b0 b1 b2 b3 hp
  simp only [exec_push1, exec_push2, exec_push4, pushBytes_of_closed cfg _ _ hp]
  exact ⟨rfl, rfl, rfl⟩

/-- Settles O29: each phase that is left is one in which R86 does not allow the command. -/
theorem commandsOutOfPhaseAreRefused : Obligations.CommandsOutOfPhaseAreRefused := by
  intro s
  have hrefused (c : Command) (h : commandLegal c s.phase = false) :
      Host.Outcome.next (ρ := Refusal) (φ := Fault) ((runCommand cfg c s).respond true 0) = .next (seqRefused s) :=
    congrArg _ (respond_runCommand_of_illegal cfg h)
  refine ⟨fun hp => hrefused .reset (by rw [hp]; rfl), fun hfresh haccum => hrefused .final ?_, fun hfresh hfinalized =>
    ⟨hrefused .hash ?_, hrefused .pair ?_, hrefused .name ?_⟩⟩
  all_goals cases hp : s.phase <;> simp_all [commandLegal]

end Sys2Proof.Machine

/-! ## The register map, access by access (20_memory.md R51, R55) -/

namespace Sys2Proof.Machine

/-! ### Which accesses are admitted -/

theorem admitted_ne_none_iff {d : Dir} {n : Size} {off : Offset} :
    admitted d n off ≠ none ↔ ∃ r, regAdmits d n off.toNat r = true := by
  refine ⟨fun h => ?_, fun ⟨r, hr⟩ => by simp [admitted_of_regAdmits hr]⟩
  obtain ⟨r, hr⟩ := Option.ne_none_iff_exists'.mp h
  exact ⟨r, List.find?_some hr⟩

/-- A read of either window, of each size: aligned and within it. -/
theorem regAdmits_read_out_iff (n : Size) (off : Nat) :
    regAdmits .read n off .out = true ↔ off % sizeBytes n = 0 ∧ 0x60 ≤ off ∧ off + sizeBytes n ≤ 0x80 := by
  cases n <;> simp [regAdmits_iff, regBase, regSpan, regSizes, regAllows]

theorem regAdmits_read_name_iff (n : Size) (off : Nat) :
    regAdmits .read n off .name = true ↔ off % sizeBytes n = 0 ∧ 0x80 ≤ off ∧ off + sizeBytes n ≤ 0x90 := by
  cases n <;> simp [regAdmits_iff, regBase, regSpan, regSizes, regAllows]

/-- A narrow read reaches the two windows only: every other readable row takes four-byte accesses alone. -/
theorem admitted_read_narrow_iff {n : Size} (off : Offset) (hn : n ≠ .four) :
    admitted .read n off ≠ none ↔ off.toNat % sizeBytes n = 0 ∧ 0x60 ≤ off.toNat ∧ off.toNat + sizeBytes n ≤ 0x90 := by
  rw [admitted_ne_none_iff]
  refine ⟨fun ⟨r, hr⟩ => ?_, fun ⟨halign, hlo, hhi⟩ => ?_⟩
  · cases r with
    | out => have := (regAdmits_read_out_iff n _).mp hr; omega
    | name => have := (regAdmits_read_name_iff n _).mp hr; omega
    | _ => simp [regAdmits_iff, regSizes, regAllows, hn] at hr
  · by_cases hout : off.toNat + sizeBytes n ≤ 0x80
    · exact ⟨.out, (regAdmits_read_out_iff n _).mpr ⟨halign, hlo, hout⟩⟩
    · refine ⟨.name, (regAdmits_read_name_iff n _).mpr ⟨halign, ?_, hhi⟩⟩
      cases n <;> simp only [sizeBytes] at * <;> omega

/-- A four-byte read is admitted at the aligned offsets of the map but those of the two ports and the gaps. -/
theorem admitted_read_four_iff (off : Offset) :
    admitted .read .four off ≠ none ↔ off.toNat % 4 = 0 ∧
      (off.toNat = 0x00 ∨ off.toNat = 0x08 ∨ off.toNat = 0x0C ∨ (0x18 ≤ off.toNat ∧ off.toNat ≤ 0x30) ∨
        (0x40 ≤ off.toNat ∧ off.toNat < 0x90)) := by
  rw [admitted_ne_none_iff]
  refine ⟨fun ⟨r, hr⟩ => ?_, fun ⟨halign, hmap⟩ => ?_⟩
  · obtain ⟨halign, hlo, hhi, -, -, hallow⟩ := (regAdmits_iff _ _ _ _).mp hr
    refine ⟨halign, ?_⟩
    cases r <;> simp only [regBase, regSpan, sizeBytes, regAllows, Bool.false_eq_true] at * <;> omega
  · have hregister (r : Reg) (hoff : off.toNat = regBase r) (hspan : regSpan r = 4) (hsize : regSizes r = [.four])
        (hmsg : r ≠ .msg) (hallow : regAllows r .read = true) : ∃ r, regAdmits .read .four off.toNat r = true := by
      refine ⟨r, (regAdmits_iff _ _ _ _).mpr ⟨halign, hoff.ge, ?_, by simp [hsize], .inl hmsg, hallow⟩⟩
      rw [hoff, hspan]
      exact le_rfl
    have hcases : off.toNat = 0x00 ∨ off.toNat = 0x08 ∨ off.toNat = 0x0C ∨ off.toNat = 0x18 ∨ off.toNat = 0x1C ∨
        off.toNat = 0x20 ∨ off.toNat = 0x24 ∨ off.toNat = 0x28 ∨ off.toNat = 0x2C ∨ off.toNat = 0x30 ∨
        (0x40 ≤ off.toNat ∧ off.toNat < 0x60) ∨ (0x60 ≤ off.toNat ∧ off.toNat < 0x80) ∨
        (0x80 ≤ off.toNat ∧ off.toNat < 0x90) := by omega
    rcases hcases with h | h | h | h | h | h | h | h | h | h | ⟨hlo, hhi⟩ | ⟨hlo, hhi⟩ | ⟨hlo, hhi⟩
    · exact hregister .id h rfl rfl (by decide) rfl
    · exact hregister .status h rfl rfl (by decide) rfl
    · exact hregister .err h rfl rfl (by decide) rfl
    · exact hregister .argLo h rfl rfl (by decide) rfl
    · exact hregister .argHi h rfl rfl (by decide) rfl
    · exact hregister .lenLo h rfl rfl (by decide) rfl
    · exact hregister .lenHi h rfl rfl (by decide) rfl
    · exact hregister .remLo h rfl rfl (by decide) rfl
    · exact hregister .remHi h rfl rfl (by decide) rfl
    · exact hregister .qmix h rfl rfl (by decide) rfl
    · refine hregister (.h ⟨(off.toNat - 0x40) / 4, by omega⟩) ?_ rfl rfl (by simp) rfl
      simp only [regBase]
      omega
    · exact ⟨.out, (regAdmits_read_out_iff _ _).mpr ⟨halign, hlo, by simp only [sizeBytes]; omega⟩⟩
    · exact ⟨.name, (regAdmits_read_name_iff _ _).mpr ⟨halign, hlo, by simp only [sizeBytes]; omega⟩⟩

/-- A narrow write is admitted at `MSG` only. -/
theorem admitted_write_narrow {n : Size} {off : Offset} (hn : n ≠ .four) (hoff : off ≠ 0x10) :
    admitted .write n off = none := by
  by_contra h
  obtain ⟨r, hr⟩ := admitted_ne_none_iff.mp h
  cases r with
  | msg =>
    obtain ⟨-, -, -, -, hport, -⟩ := (regAdmits_iff _ _ _ _).mp hr
    exact hoff (BitVec.eq_of_toNat_eq (hport.resolve_left (by simp)))
  | _ => simp [regAdmits_iff, regSizes, regAllows, hn] at hr

/-- A four-byte write is admitted at the two ports and the two halves of `ARG` only. -/
theorem admitted_write_four {off : Offset} (hcmd : off ≠ 0x04) (hmsg : off ≠ 0x10) (hlo : off ≠ 0x18) (hhi : off ≠ 0x1C) :
    admitted .write .four off = none := by
  by_contra h
  obtain ⟨r, hr⟩ := admitted_ne_none_iff.mp h
  obtain ⟨-, hbase, hend, -, -, hallow⟩ := (regAdmits_iff _ _ _ _).mp hr
  cases r with
  | cmd | msg | argLo | argHi =>
    simp only [regBase, regSpan, sizeBytes] at hbase hend
    bv_omega
  | _ => simp [regAllows] at hallow

/-! ### Admission, as the host sees it -/

/-- A read answers a value and changes nothing else where it is admitted, and is a bus error elsewhere. -/
theorem busRead_by_admission {n : Size} {off : Offset} {P : Prop} [Decidable P] (s : State)
    (h : admitted .read n off ≠ none ↔ P) :
    if P then ∃ v, (.next (busRead cfg n off s) : Host.Outcome State Fault Refusal) =
      .next { s with responses := s.responses ++ [⟨true, v⟩] }
    else (.next (busRead cfg n off s) : Host.Outcome State Fault Refusal) = .next (busError s) := by
  split_ifs with hP
  · obtain ⟨r, hr⟩ := Option.ne_none_iff_exists'.mp (h.mpr hP)
    exact ⟨_, congrArg _ (busRead_of_admitted cfg s hr)⟩
  · rw [busRead_of_refused cfg s (not_not.mp (mt h.mp hP))]

/-- Settles O21, access by access: the reads by the rows they can reach, the writes by the four writable rows. -/
theorem admissionFollowsTheRegisterMap : Obligations.AdmissionFollowsTheRegisterMap := by
  intro s off v1 v2 v4
  refine ⟨busRead_by_admission s ?_, busRead_by_admission s ?_, busRead_by_admission s ?_, ?_, ?_, ?_⟩
  · rw [admitted_read_narrow_iff off (by decide), sizeBytes]
    bv_omega
  · rw [admitted_read_narrow_iff off (by decide), sizeBytes]
    bv_omega
  · rw [admitted_read_four_iff]
    bv_omega
  · split_ifs with h
    · subst h
      exact ⟨_, exec_wr1 _ v1 s, by rw [← offMsg, busWrite_msg, respond_responses, pushBytes_responses]⟩
    · rw [exec_wr1, busWrite_of_refused cfg _ s (admitted_write_narrow (by decide) h)]
  · split_ifs with h
    · subst h
      exact ⟨_, exec_wr2 _ v2 s, by rw [← offMsg, busWrite_msg, respond_responses, pushBytes_responses]⟩
    · rw [exec_wr2, busWrite_of_refused cfg _ s (admitted_write_narrow (by decide) h)]
  · split_ifs with h
    · rcases h with rfl | rfl | rfl | rfl
      · exact ⟨_, exec_wr4 _ v4 s, by rw [busWrite_cmd, respond_responses, writeCommand_responses]⟩
      · exact ⟨_, exec_wr4 _ v4 s, by rw [← offMsg, busWrite_msg, respond_responses, pushBytes_responses]⟩
      · exact ⟨_, exec_wr4 _ v4 s, by rw [← offArgLo, busWrite_argLo]; rfl⟩
      · exact ⟨_, exec_wr4 _ v4 s, by rw [← offArgHi, busWrite_argHi]; rfl⟩
    · obtain ⟨hcmd, hmsg, hlo, hhi⟩ : off ≠ 0x04 ∧ off ≠ 0x10 ∧ off ≠ 0x18 ∧ off ≠ 0x1C := by simpa using h
      rw [exec_wr4, busWrite_of_refused cfg _ s (admitted_write_four hcmd hmsg hlo hhi)]

/-! ### The numeric registers and the window OUT (20_memory.md R51, R54) -/

theorem exec_rd4_of_admitted {off : Offset} {r : Reg} (s : State) (h : admitted .read .four off = some r) :
    exec (.rd4 off) s = .next (s.respond true (readValue cfg s r off.toNat 4)) := by
  rw [exec_rd4, busRead_of_admitted cfg s h, sizeBytes]

/-- Settles O15, register by register. -/
theorem readsOfTheNumericRegisters : Obligations.ReadsOfTheNumericRegisters := fun s =>
  ⟨exec_rd4_of_admitted (r := .argLo) s (by decide), exec_rd4_of_admitted (r := .argHi) s (by decide),
    exec_rd4_of_admitted (r := .lenLo) s (by decide), exec_rd4_of_admitted (r := .lenHi) s (by decide),
    exec_rd4_of_admitted (r := .remLo) s (by decide), exec_rd4_of_admitted (r := .remHi) s (by decide),
    exec_rd4_of_admitted (r := .qmix) s (by decide), exec_rd4_of_admitted (r := .h 0) s (by decide),
    exec_rd4_of_admitted (r := .h 1) s (by decide), exec_rd4_of_admitted (r := .h 2) s (by decide),
    exec_rd4_of_admitted (r := .h 3) s (by decide), exec_rd4_of_admitted (r := .h 4) s (by decide),
    exec_rd4_of_admitted (r := .h 5) s (by decide), exec_rd4_of_admitted (r := .h 6) s (by decide),
    exec_rd4_of_admitted (r := .h 7) s (by decide)⟩

/-- An aligned read of `OUT`, the `i`-th of its size, is a window read of its bytes (20_memory.md R54). -/
theorem busRead_out (C : Cfg) (n : Size) (i : Nat) (s : State) (hi : sizeBytes n * i + sizeBytes n ≤ 32) :
    busRead C n (BitVec.ofNat 16 (0x60 + sizeBytes n * i)) s =
      s.respond true (windowRead (outByte s) (sizeBytes n * i) (sizeBytes n)) := by
  have hoff : (BitVec.ofNat 16 (0x60 + sizeBytes n * i)).toNat = 0x60 + sizeBytes n * i := by
    rw [BitVec.toNat_ofNat]
    omega
  have haligned : (0x60 + sizeBytes n * i) % sizeBytes n = 0 := by
    cases n <;> simp only [sizeBytes] <;> omega
  have hadm : admitted .read n (BitVec.ofNat 16 (0x60 + sizeBytes n * i)) = some .out := by
    apply admitted_of_regAdmits
    rw [hoff, regAdmits_read_out_iff]
    exact ⟨haligned, Nat.le_add_right _ _, by omega⟩
  rw [busRead_of_admitted C s hadm, hoff]
  simp [readValue]

theorem outByte_of_lt (s : State) {i : Nat} (hi : i < 32) : outByte s i = s.out[i] := dif_pos hi

/-- A four-byte read of the window `OUT`. -/
theorem exec_rd4_out (s : State) (k : Fin 8) :
    exec (.rd4 (BitVec.ofNat 16 (0x60 + 4 * k.val))) s = .next (s.respond true
      (s.out[4 * k.val + 3] ++ s.out[4 * k.val + 2] ++ s.out[4 * k.val + 1] ++ s.out[4 * k.val])) := by
  have hread := busRead_out cfg .four k s (by simp only [sizeBytes]; omega)
  simp only [sizeBytes, windowRead_four] at hread
  rw [exec_rd4, hread, outByte_of_lt s (by omega), outByte_of_lt s (by omega), outByte_of_lt s (by omega),
    outByte_of_lt s (by omega)]

/-- Settles O19: each size of read is a window read of the bytes of `OUT`. -/
theorem outWindowIsReadBytewise : Obligations.OutWindowIsReadBytewise := by
  refine fun s => ⟨fun i => ?_, fun i => ?_, exec_rd4_out s⟩
  · have hread := busRead_out cfg .one i s (by simp only [sizeBytes]; omega)
    simp only [sizeBytes, one_mul, windowRead_one, outByte_of_lt s i.isLt] at hread
    exact congrArg Host.Outcome.next hread
  · have hread := busRead_out cfg .two i s (by simp only [sizeBytes]; omega)
    simp only [sizeBytes, windowRead_two] at hread
    rw [outByte_of_lt s (by omega), outByte_of_lt s (by omega)] at hread
    exact congrArg Host.Outcome.next hread

/-! ### The operand register (10_state.md R26) -/

/-- Settles O22: a written half is the new value of that half, the other half is put back beside it. -/
theorem setArgWritesOneHalfOfArg : Obligations.SetArgWritesOneHalfOfArg := by
  refine fun s v => ⟨⟨hiWord s.arg ++ v, BitVec.extractLsb'_append_eq_right, BitVec.extractLsb'_append_eq_left, rfl, ?_⟩,
    ⟨v ++ loWord s.arg, BitVec.extractLsb'_append_eq_right, BitVec.extractLsb'_append_eq_left, rfl, ?_⟩⟩
  · exact congrArg Host.Outcome.next (busWrite_argLo cfg v s)
  · exact congrArg Host.Outcome.next (busWrite_argHi cfg v s)

/-! ### The pseudo-instructions (30_encoding.md R90) -/

/-- The greedy expansion pushes its bytes in order (R90). -/
theorem pushRows_pushes (m : List Byte) :
    (∀ i ∈ pushRows m, isPush i = true) ∧ messageOf (pushRows m) = m ∧
      (pushRows m).length = m.length / 4 + (m.length % 4 + 1) / 2 := by
  induction m using pushRows.induct with
  | case1 b0 b1 b2 b3 rest ih =>
    obtain ⟨hpush, hmessage, hlength⟩ := ih
    refine ⟨?_, ?_, ?_⟩
    · rw [pushRows, List.forall_mem_cons]
      exact ⟨rfl, hpush⟩
    · rw [pushRows, messageOf, List.flatMap_cons, ← messageOf, hmessage]
      rfl
    · rw [pushRows, List.length_cons, hlength]
      simp only [List.length_cons]
      omega
  | case2 b0 b1 b2 => simp [pushRows, isPush, messageOf, bytesOf]
  | case3 b0 b1 => simp [pushRows, isPush, messageOf, bytesOf]
  | case4 b0 => simp [pushRows, isPush, messageOf, bytesOf]
  | case5 => simp [pushRows, messageOf]

theorem runInstrs_setArgRows (s : State) (v : Count) : runInstrs (setArgRows v) s =
    .next { s with arg := v, responses := s.responses ++ [⟨true, 0⟩, ⟨true, 0⟩] } := by
  have hhalves : hiWord v ++ loWord (hiWord s.arg ++ loWord v) = v := by
    rw [loWord, BitVec.extractLsb'_append_eq_right, hiWord, loWord,
      BitVec.extractLsb'_append_extractLsb'_eq_extractLsb' (by decide), BitVec.extractLsb'_eq_self]
  rw [setArgRows, runInstrs_cons_of_exec _ (exec_setargLo _ _), runInstrs_cons_of_exec _ (exec_setargHi _ _), runInstrs]
  simp [setArgHi, setArgLo, State.respond, hhalves]

/-- A list of reads, each of which answers a value that does not depend on the responses, answers those values in order. -/
theorem runInstrs_of_reads {n : Nat} (rows : Fin n → Instr) (value : Fin n → Word) (s : State)
    (h : ∀ (rs : List Response) (k : Fin n), exec (rows k) { s with responses := rs } =
      .next { s with responses := rs ++ [⟨true, value k⟩] }) :
    runInstrs (List.ofFn rows) s =
      .next { s with responses := s.responses ++ List.ofFn fun k => (⟨true, value k⟩ : Response) } := by
  induction n generalizing s with
  | zero => simp [runInstrs]
  | succ n ih =>
    have hrest := ih (fun k => rows k.succ) (fun k => value k.succ)
      { s with responses := s.responses ++ [⟨true, value 0⟩] } fun rs k => h rs k.succ
    rw [List.ofFn_succ, runInstrs_cons_of_exec _ (h s.responses 0), hrest]
    simp [List.ofFn_succ]

/-- Settles O46: PUSH by the recursion of its expansion; the reads one by one, each leaving the state but for its response. -/
theorem pseudoInstructionsExpandToRows : Obligations.PseudoInstructionsExpandToRows := by
  refine ⟨pushRows_pushes, runInstrs_setArgRows, fun s => ?_, fun s hst => ?_, fun s hst => ?_⟩
  · exact runInstrs_of_reads (fun k : Fin 8 => .rd4 (BitVec.ofNat 16 (0x60 + 4 * k.val))) _ s
      fun rs k => exec_rd4_out { s with responses := rs } k
  · exact runInstrs_of_reads (fun k : Fin 4 => .rd4 (BitVec.ofNat 16 (0x80 + 4 * k.val))) _ s
      fun rs k => exec_rd4_name (s := { s with responses := rs }) (nameAt := fun i => cfg.implName[i]) (by simp [hst]) k
  · exact runInstrs_of_reads (fun k : Fin 4 => .rd4 (BitVec.ofNat 16 (0x80 + 4 * k.val))) (fun _ => 0) s
      fun rs k => exec_rd4_name_of_not_pass (s := { s with responses := rs }) hst k

end Sys2Proof.Machine

/-! ## One pushed byte as an exact next state (46_streaming.md R205; 47_oneshot_pair.md R232, R238) -/

namespace Sys2Proof.Machine

/-! ### In FRESH and ACCUM -/

theorem storeAt_eq_setIfInBounds (c : Fin 64) (x : Byte) (b : Block) : storeAt c x b = b.setIfInBounds c.val x := by
  apply Vector.ext
  intro i hi
  simp [storeAt, Vector.getElem_set, Vector.getElem_setIfInBounds]

theorem storeByte_of_streaming (b : Byte) {s : State} (hp : s.phase = .fresh ∨ s.phase = .accum) :
    storeByte b s = { s with buf := storeAt s.bufcnt b s.buf, len := s.len + 1, phase := .accum } := by
  rcases hp with hp | hp <;> simp [storeByte, hp]

/-- A byte below the block is stored and counted, and nothing else changes. -/
theorem pushByte_of_streaming_room (C : Cfg) (b : Byte) {s : State} (hp : s.phase = .fresh ∨ s.phase = .accum)
    (hc : s.bufcnt.val < 63) :
    pushByte C b s = { s with
      buf := s.buf.setIfInBounds s.bufcnt.val b, bufcnt := s.bufcnt + 1, len := s.len + 1, phase := .accum } := by
  rw [pushByte_of_streaming C b hp, countByte_of_room C b s (by omega), storeByte_of_streaming b hp,
    storeAt_eq_setIfInBounds]

theorem pushBytes_two_of_streaming_room (C : Cfg) (b0 b1 : Byte) {s : State}
    (hp : s.phase = .fresh ∨ s.phase = .accum) (hc : s.bufcnt.val < 62) :
    pushBytes C [b0, b1] s = { s with
      buf := (s.buf.setIfInBounds s.bufcnt.val b0).setIfInBounds (s.bufcnt.val + 1) b1,
      bufcnt := s.bufcnt + 2, len := s.len + 2, phase := .accum } := by
  have hval : (s.bufcnt + 1).val = s.bufcnt.val + 1 := Fin.val_add_one_of_lt' (by omega)
  rw [pushBytes_cons, pushBytes_cons, pushBytes_nil, pushByte_of_streaming_room C b0 hp (by omega),
    pushByte_of_streaming_room C b1 (.inr rfl) (by rw [hval]; omega)]
  simp only [hval, add_assoc]
  rfl

theorem pushBytes_four_of_streaming_room (C : Cfg) (b0 b1 b2 b3 : Byte) {s : State}
    (hp : s.phase = .fresh ∨ s.phase = .accum) (hc : s.bufcnt.val < 60) :
    pushBytes C [b0, b1, b2, b3] s = { s with
      buf := (((s.buf.setIfInBounds s.bufcnt.val b0).setIfInBounds (s.bufcnt.val + 1) b1).setIfInBounds
        (s.bufcnt.val + 2) b2).setIfInBounds (s.bufcnt.val + 3) b3,
      bufcnt := s.bufcnt + 4, len := s.len + 4, phase := .accum } := by
  have hval : (s.bufcnt + 2).val = s.bufcnt.val + 2 := by
    rw [Fin.val_add]
    exact Nat.mod_eq_of_lt (by simp; omega)
  rw [show [b0, b1, b2, b3] = [b0, b1] ++ [b2, b3] from rfl, pushBytes_append,
    pushBytes_two_of_streaming_room C b0 b1 hp (by omega),
    pushBytes_two_of_streaming_room C b2 b3 (.inr rfl) (by rw [hval]; omega)]
  simp only [hval, add_assoc]
  rfl

/-- The base rows at `MSG` are the push rows: both are the same transaction (30_encoding.md R88). -/
theorem exec_wr1_msg (b0 : Byte) (s : State) : exec (.wr1 0x10 b0) s = exec (.push1 b0) s := by
  rw [exec_eq_perform, exec_eq_perform]
  rfl

theorem exec_wr2_msg (b0 b1 : Byte) (s : State) : exec (.wr2 0x10 (b1 ++ b0)) s = exec (.push2 b0 b1) s := by
  rw [exec_eq_perform, exec_eq_perform]
  rfl

theorem exec_wr4_msg (b0 b1 b2 b3 : Byte) (s : State) :
    exec (.wr4 0x10 (b3 ++ b2 ++ b1 ++ b0)) s = exec (.push4 b0 b1 b2 b3) s := by
  rw [exec_eq_perform, exec_eq_perform]
  rfl

/-- Settles O23: one byte, then two as one after one, then four as two after two. -/
theorem pushBelowABlockStoresTheBytes : Obligations.PushBelowABlockStoresTheBytes := by
  intro s b0 b1 b2 b3 hp
  refine ⟨fun hc => ⟨_, exec_push1 b0 s, exec_wr1_msg b0 s, ?_⟩, fun hc => ⟨_, exec_push2 b0 b1 s, exec_wr2_msg b0 b1 s, ?_⟩,
    fun hc => ⟨_, exec_push4 b0 b1 b2 b3 s, exec_wr4_msg b0 b1 b2 b3 s, ?_⟩⟩
  · rw [pushBytes_cons, pushBytes_nil, pushByte_of_streaming_room cfg b0 hp hc]
    rfl
  · rw [pushBytes_two_of_streaming_room cfg b0 b1 hp hc]
    rfl
  · rw [pushBytes_four_of_streaming_room cfg b0 b1 b2 b3 hp hc]
    rfl

/-- The byte that fills the block is stored at its last place and the block is compressed. -/
theorem pushByte_of_streaming_full (C : Cfg) (b : Byte) {s : State} (hp : s.phase = .fresh ∨ s.phase = .accum)
    (hc : s.bufcnt = 63) :
    let r := compress C s.h s.qmix (s.buf.set 63 b) (s.len + 1)
    pushByte C b s = { s with
      buf := s.buf.set 63 b, h := r.h, qmix := r.q, nfired := r.act, bufcnt := 0, len := s.len + 1, phase := .accum } := by
  have hpair : s.phase ≠ .pair := by rcases hp with hp | hp <;> simp [hp]
  rw [pushByte_of_streaming C b hp, countByte_of_full_not_pair C b hpair hc, storeByte_of_streaming b hp, hc]
  rfl

/-- Settles O24: the exact next state of the push, with its response. -/
theorem pushOfThe64thByteCompresses : Obligations.PushOfThe64thByteCompresses := by
  intro s b hp hc
  simp only [exec_push1, pushBytes_cons, pushBytes_nil, pushByte_of_streaming_full cfg b hp hc, State.respond]

/-! ### In ONESHOT -/

/-- What a byte does to the buffer in ONESHOT is what it does in ACCUM, whatever `REM` is. -/
theorem countByte_of_oneshot (C : Cfg) (b : Byte) {s : State} (hp : s.phase = .oneshot) (r : Count) :
    countByte C b s = { countByte C b { s with phase := .accum, rem := r } with phase := .oneshot, rem := s.rem } := by
  by_cases hc : s.bufcnt = 63
  · rw [countByte_of_full_not_pair C b (by simp [hp]) hc,
      countByte_of_full_not_pair C b (s := { s with phase := .accum, rem := r }) (by simp) hc]
    simp [compressBlock, storeByte, hp]
  · rw [countByte_of_room C b s hc, countByte_of_room C b { s with phase := .accum, rem := r } hc]
    simp [storeByte, hp]

theorem finalize_with_phase (C : Cfg) (s : State) (p : Phase) : finalize C { s with phase := p } = finalize C s := by
  have hpad : padFinal C { s with phase := p } = { padFinal C s with phase := p } := by
    unfold padFinal
    dsimp only
    split_ifs <;> rfl
  rw [finalize, hpad]
  rfl

/-- The last announced byte: as in ACCUM, then `Finalize()` with `REM = 0`. -/
theorem pushByte_of_oneshot_last (C : Cfg) (b : Byte) {s : State} (hp : s.phase = .oneshot) (hr : s.rem = 1) :
    pushByte C b s = finalize C (pushByte C b { s with phase := .accum, rem := 0 }) := by
  obtain ⟨hpush, hphase, hrem⟩ := pushByte_of_oneshot C b hp
  have hlast : (countByte C b s).rem - 1 = 0 := by rw [hrem, hr]; rfl
  have hcounted : (countByte C b { s with phase := .accum, rem := 0 }).rem = 0 := countByte_rem_of_not_pair C b (by simp)
  rw [hpush, countDown_of_last C _ hphase hlast, countByte_of_oneshot C b hp 0, pushByte_of_streaming C b (.inr rfl)]
  generalize countByte C b { s with phase := .accum, rem := 0 } = t at hcounted
  rw [← finalize_with_phase C t .oneshot, ← hcounted]

/-- A byte before the last announced one: as in ACCUM, and counted down. -/
theorem pushByte_of_oneshot_more (C : Cfg) (b : Byte) {s : State} (hp : s.phase = .oneshot) (hr : 1 < s.rem.toNat) :
    pushByte C b s = { pushByte C b { s with phase := .accum } with phase := .oneshot, rem := s.rem - 1 } := by
  obtain ⟨hpush, hphase, hrem⟩ := pushByte_of_oneshot C b hp
  have hmore : (countByte C b s).rem - 1 ≠ 0 := by
    rw [hrem]
    bv_omega
  rw [hpush, countDown_of_more C _ hphase hmore, hrem, countByte_of_oneshot C b hp s.rem, pushByte_of_streaming C b (.inr rfl)]

/-- A response taken back: what the push did. -/
theorem respond_pushBytes_restored (C : Cfg) (bs : List Byte) (s : State) (ok : Bool) (v : Word) :
    { (pushBytes C bs s).respond ok v with responses := s.responses } = pushBytes C bs s := by
  rw [← pushBytes_responses C bs s]
  rfl

/-- Settles O25: before the last byte as in ACCUM and counted down, at the last byte as in ACCUM and finalised. -/
theorem oneShotPushCountsDownAndFinalizes : Obligations.OneShotPushCountsDownAndFinalizes := by
  intro s b hp
  refine ⟨fun hr => ⟨_, exec_push1 b _, ?_⟩, fun hr => ?_⟩
  · rw [exec_push1, pushBytes_cons, pushBytes_nil, pushByte_of_oneshot_more cfg b hp hr]
    rfl
  · have hpush : exec (.push1 b) s =
        .next ((finalize cfg (pushByte cfg b { s with phase := .accum, rem := 0 })).respond true 0) := by
      rw [exec_push1, pushBytes_cons, pushBytes_nil, pushByte_of_oneshot_last cfg b hp hr]
    have hrem : (pushByte cfg b { s with phase := .accum, rem := 0 }).rem = 0 := by
      rw [pushByte_of_streaming cfg b (.inr rfl), countByte_rem_of_not_pair cfg b (by simp)]
    have hlegal : commandLegal .final (pushByte cfg b { s with phase := .accum, rem := 0 }).phase = true := by
      rw [pushByte_phase_of_streaming cfg b (.inr rfl)]
      rfl
    refine ⟨_, _, exec_push1 b _, ?_, hpush, rfl, (finalize_rem cfg _).trans hrem, rfl⟩
    rw [exec_cmdFinal, respond_pushBytes_restored cfg [b] { s with phase := .accum, rem := 0 }, pushBytes_cons, pushBytes_nil,
      runCommand_of_legal cfg _ _ hlegal]
    rfl

/-! ### In PAIR -/

theorem pushByte_of_pair (C : Cfg) (b : Byte) {s : State} (hp : s.phase = .pair) : pushByte C b s = countByte C b s := by
  have hcounted : (countByte C b s).phase ≠ .oneshot := by
    rw [countByte_phase_of_pair C b hp]
    split_ifs <;> simp
  rw [pushByte_of_open C b s (by simp [hp]) (by simp [hp]), countDown_of_not_oneshot C _ hcounted]

theorem pushByte_of_pair_room (C : Cfg) (b : Byte) {s : State} (hp : s.phase = .pair) (hc : s.bufcnt.val < 63) :
    pushByte C b s = { s with
      buf := s.buf.setIfInBounds s.bufcnt.val b, bufcnt := s.bufcnt + 1, len := s.len + 1 } := by
  rw [pushByte_of_pair C b hp, countByte_of_room C b s (by omega), ← storeAt_eq_setIfInBounds]
  simp [storeByte, hp]

/-- The 64th byte of an input, of which nothing was compressed before (47_oneshot_pair.md R238, R239). -/
theorem pushByte_of_pair_full (C : Cfg) (b : Byte) {s : State} (hp : s.phase = .pair) (hc : s.bufcnt = 63)
    (hh : s.h = C.iv) (hq : s.qmix = 0) (hl : s.len = 63) :
    pushByte C b s = { s with
      buf := s.buf.set 63 b, out := pairT C (s.buf.set 63 b), dvalid := true,
      nfired := C.npred (s.buf.set 63 b)[0] 64, bufcnt := 0, len := 0, rem := s.rem - 1,
      phase := if s.rem = 1 then .finalized else .pair } := by
  rw [pushByte_of_pair C b hp, countByte_of_full C b s hc, blockFull_of_pair C _ ((storeByte_phase_eq_pair_iff b s).mpr hp)]
  simp only [pairBlockDone, compressBlock, storeByte, serOut, hp, hc, hl, hh, hq, count_sub_one_eq_zero_iff, reduceCtorEq, if_false]
  rfl

/-- Settles O26: the two exact next states of a byte in PAIR. -/
theorem pairPushStoresAndEmits : Obligations.PairPushStoresAndEmits := by
  intro s b hp
  refine ⟨fun hc => ?_, fun hc hh hq hl => ?_⟩
  · rw [exec_push1, pushBytes_cons, pushBytes_nil, pushByte_of_pair_room cfg b hp hc]
    rfl
  · rw [exec_push1, pushBytes_cons, pushBytes_nil, pushByte_of_pair_full cfg b hp hc hh hq hl]
    rfl

/-! ### Wider writes and groupings -/

/-- Settles O28: the pushes of a wider write are those of its halves, one after the other. -/
theorem wideWritesPushByteByByte : Obligations.WideWritesPushByteByByte := by
  intro s b0 b1 b2 b3
  refine ⟨⟨_, _, exec_push1 b0 s, exec_push1 b1 _, ?_⟩, ⟨_, _, exec_push2 b0 b1 s, exec_push2 b2 b3 _, ?_⟩⟩
  · rw [respond_pushBytes_restored, ← pushBytes_append, exec_push2]
    rfl
  · rw [respond_pushBytes_restored, ← pushBytes_append, exec_push4]
    rfl

/-- Settles O45: a run of pushes is its message pushed, whatever the grouping. -/
theorem groupingOfBytesDoesNotMatter : Obligations.GroupingOfBytesDoesNotMatter := by
  intro p q s hp hq hmessage
  refine ⟨_, _, runInstrs_of_pushes s hp, runInstrs_of_pushes s hq, ?_⟩
  rw [hmessage]

end Sys2Proof.Machine

/-! ## The commands as exact next states (46_streaming.md R208 to R211; 47_oneshot_pair.md R232, R236; 48_selftest.md R253) -/

namespace Sys2Proof.Machine

theorem commandLegal_of_streaming {s : State} (hp : s.phase = .fresh ∨ s.phase = .accum) :
    commandLegal .final s.phase = true := by
  rcases hp with hp | hp <;> rw [hp] <;> rfl

/-- HASH, PAIR and NAME start from FRESH and FINALIZED (30_encoding.md R86). -/
theorem commandLegal_of_idle {s : State} (hp : s.phase = .fresh ∨ s.phase = .finalized) :
    commandLegal .hash s.phase = true ∧ commandLegal .pair s.phase = true ∧ commandLegal .name s.phase = true := by
  rcases hp with hp | hp <;> rw [hp] <;> exact ⟨rfl, rfl, rfl⟩

/-! ### FINAL: the padded blocks, byte by byte (41_padding.md R122) -/

/-- The bit length of a count of bytes (41_padding.md R123). -/
theorem bitlen_toNat (l : Count) : bitlen l.toNat = 8 * l := by
  apply BitVec.eq_of_toNat_eq
  rw [bitlen, BitVec.toNat_ofNat, BitVec.toNat_mul]
  rfl

/-- One padded block: the bytes in the buffer, the marker, zeros, the length. -/
theorem putLength_of_room (l : Count) (c : Fin 64) (b : Block) (hc : c.val ≤ 55) :
    putLength l.toNat (fillZero (c.val + 1) 56 (storeAt c 0x80 b)) = Vector.ofFn fun j =>
      if j.val < c.val then b[j] else if j.val = c.val then 0x80
      else if j.val < 56 then 0x00 else (ser64 (8 * l)).getD (j.val - 56) 0 := by
  apply Vector.ext
  intro i hi
  rw [putLength_getElem, fillZero_getElem, storeAt_getElem, bitlen_toNat, Vector.getElem_ofFn]
  dsimp only [Fin.getElem_fin]
  grind

/-- The first of two padded blocks: the bytes in the buffer, the marker, zeros. -/
theorem fillZero_of_marker (c : Fin 64) (b : Block) :
    fillZero (c.val + 1) 64 (storeAt c 0x80 b) = Vector.ofFn fun j =>
      if j.val < c.val then b[j] else if j.val = c.val then 0x80 else 0x00 := by
  apply Vector.ext
  intro i hi
  rw [fillZero_getElem, storeAt_getElem, Vector.getElem_ofFn]
  dsimp only [Fin.getElem_fin]
  grind

/-- The second of two padded blocks: zeros and the length. -/
theorem putLength_of_zeros (l : Count) (b : Block) :
    putLength l.toNat (fillZero 0 56 b) = Vector.ofFn fun j =>
      if j.val < 56 then 0x00 else (ser64 (8 * l)).getD (j.val - 56) 0 := by
  apply Vector.ext
  intro i hi
  rw [putLength_getElem, fillZero_getElem, bitlen_toNat, Vector.getElem_ofFn]
  dsimp only
  grind

/-- At most 55 bytes: the length fits beside them (41_padding.md R122). -/
theorem padFinal_of_room (C : Cfg) (s : State) (hc : ¬ 56 < s.bufcnt.val + 1) :
    padFinal C s = compressBlock C { s with
      buf := putLength s.len.toNat (fillZero (s.bufcnt.val + 1) 56 (storeAt s.bufcnt 0x80 s.buf)) } :=
  if_neg hc

/-- 56 bytes or more: two blocks. -/
theorem padFinal_of_spill (C : Cfg) (s : State) (hc : 56 < s.bufcnt.val + 1) :
    padFinal C s =
      let b := fillZero (s.bufcnt.val + 1) 64 (storeAt s.bufcnt 0x80 s.buf)
      compressBlock C { compressBlock C { s with buf := b } with buf := putLength s.len.toNat (fillZero 0 56 b) } :=
  if_pos hc

theorem finalize_of_room (C : Cfg) (s : State) (hc : s.bufcnt.val ≤ 55) :
    finalize C s =
      let b := putLength s.len.toNat (fillZero (s.bufcnt.val + 1) 56 (storeAt s.bufcnt 0x80 s.buf))
      let r := compress C s.h s.qmix b s.len
      { s with
        buf := b, h := r.h, qmix := r.q, nfired := r.act, bufcnt := 0, out := serialize r.h, dvalid := true,
        phase := .finalized } := by
  rw [finalize, padFinal_of_room C s (by omega)]
  rfl

theorem finalize_of_spill (C : Cfg) (s : State) (hc : 56 ≤ s.bufcnt.val) :
    finalize C s =
      let b1 := fillZero (s.bufcnt.val + 1) 64 (storeAt s.bufcnt 0x80 s.buf)
      let b2 := putLength s.len.toNat (fillZero 0 56 b1)
      let r1 := compress C s.h s.qmix b1 s.len
      let r2 := compress C r1.h r1.q b2 s.len
      { s with
        buf := b2, h := r2.h, qmix := r2.q, nfired := r2.act, bufcnt := 0, out := serialize r2.h, dvalid := true,
        phase := .finalized } := by
  rw [finalize, padFinal_of_spill C s (by omega)]
  rfl

/-- Settles O32: the branch of PadFinal by the fill count, its blocks byte by byte. -/
theorem finalCommandPadsAndSerialises : Obligations.FinalCommandPadsAndSerialises := by
  intro s hp
  have hexec : exec .cmdFinal s = .next ((finalize cfg s).respond true 0) := by
    rw [exec_cmdFinal, runCommand_of_legal cfg .final s (commandLegal_of_streaming hp)]
    rfl
  refine ⟨fun hc => ?_, fun hc => ?_⟩
  · simp only [hexec, finalize_of_room cfg s hc, putLength_of_room s.len s.bufcnt s.buf hc, State.respond]
  · simp only [hexec, finalize_of_spill cfg s hc, putLength_of_zeros, fillZero_of_marker, State.respond]

/-! ### HASH and PAIR -/

theorem exec_cmdPair_of_legal {s : State} (hp : s.phase = .fresh ∨ s.phase = .finalized) :
    exec .cmdPair s = .next ((pairCommand cfg s).respond true 0) := by
  obtain ⟨-, hlegal, -⟩ := commandLegal_of_idle hp
  rw [exec_cmdPair, runCommand_of_legal cfg .pair s hlegal]
  rfl

/-- Settles O33: with a length announced the command only starts; with none it finalises a core that has absorbed nothing. -/
theorem hashCommandStartsOrFinishes : Obligations.HashCommandStartsOrFinishes := by
  intro s hp
  refine ⟨fun harg => ?_, fun harg => ⟨_, exec_cmdHash_of_legal hp, ?_⟩⟩
  · rw [exec_cmdHash_of_legal hp, hashCommand_of_length cfg s harg]
    rfl
  · have hdone := (absorbed_nil (s := softReset cfg s) rfl rfl rfl rfl).finalize
    rw [hashCommand_of_empty cfg s harg]
    exact ⟨hdone.out, hdone.phase, hdone.dvalid, hdone.len, finalize_rem cfg _, finalize_bufcnt cfg _, finalize_arg cfg _,
      finalize_st cfg _, finalize_err cfg _, finalize_inbox cfg _, congrArg (· ++ _) (finalize_responses cfg _)⟩

/-- Settles O34: the two cases of the announced count. -/
theorem pairCommandStartsOrFinishes : Obligations.PairCommandStartsOrFinishes := by
  intro s hp
  rw [exec_cmdPair_of_legal hp]
  by_cases harg : s.arg = 0
  · simp only [pairCommand_of_none cfg s harg, harg, if_true, State.respond, softReset]
  · rw [pairCommand_of_count cfg s harg, if_neg harg]
    rfl

/-! ### NAME -/

/-- The self-test run hashes `ST_MSG` as any message: from the state after `reset()`, pushed and finalised (48_selftest.md R253). -/
theorem selfTestRun_out (C : Cfg) (s : State) : (selfTestRun C s).out = nlcHash C stMsg := by
  have hstart : Absorbed C [] { softReset C s with phase := .fresh } := absorbed_nil rfl rfl rfl rfl
  obtain ⟨habsorbed, -⟩ := hstart.pushBytes_streaming (.inl rfl) stMsg
  exact habsorbed.finalize.out

/-- After the self-test run and `reset()`, the digest is in `OUT` and the rest, `BUF` aside, is as after `reset()`. -/
theorem softReset_selfTestRun (C : Cfg) (s : State) : ∃ (b : Block) (p : Phase) (v : SelfTest),
    softReset C (selfTestRun C s) = { softReset C s with out := nlcHash C stMsg, buf := b, phase := p, st := v } := by
  obtain ⟨harg, herr, hinbox, hresp, hcount⟩ := selfTestRun_frame C s
  refine ⟨(selfTestRun C s).buf, (selfTestRun C s).phase, (selfTestRun C s).st, ?_⟩
  rw [← selfTestRun_out C s]
  simp only [softReset, harg, herr, hinbox, hresp, hcount]

/-- `reset()` leaves the record of the self-test and the error bits (46_streaming.md R203). -/
theorem softReset_with_st (C : Cfg) (s : State) (v : SelfTest) :
    softReset C { s with st := v } = { softReset C s with st := v } := rfl

theorem softReset_of_fail (C : Cfg) (s : State) :
    softReset C (State.raise .selftest { s with st := .fail }) =
      { softReset C s with st := .fail, err := (softReset C s).err ||| 0x8 } := rfl

theorem nameCommand_of_wellFormed {C : Cfg} (s : State) (h : wellFormedCfg C) : ∃ b : Block,
    nameCommand C s = { softReset C s with out := nlcHash C stMsg, buf := b, phase := .fresh, st := .pass } := by
  obtain ⟨b, p, v, hreset⟩ := softReset_selfTestRun C s
  obtain ⟨-, heq⟩ | ⟨hne, -⟩ := nameCommand_cases C s
  · exact ⟨b, by rw [heq, softReset_with_st C _ .pass, hreset]⟩
  · exact absurd ((selfTestRun_out C s).trans h) hne

theorem nameCommand_of_not_wellFormed {C : Cfg} (s : State) (h : ¬ wellFormedCfg C) : ∃ b : Block,
    nameCommand C s = { softReset C s with
      out := nlcHash C stMsg, buf := b, phase := .fatal, st := .fail, err := s.err ||| 0x8 } := by
  obtain ⟨b, p, v, hreset⟩ := softReset_selfTestRun C s
  have herr : (softReset C (selfTestRun C s)).err = s.err := by rw [hreset]; rfl
  obtain ⟨heq, -⟩ | ⟨-, heq⟩ := nameCommand_cases C s
  · exact absurd ((selfTestRun_out C s).symm.trans heq) h
  · exact ⟨b, by rw [heq, softReset_of_fail, herr, hreset]⟩

/-- Settles O36, by computing the digest of `ST_MSG` under REF (48_selftest.md R251). -/
theorem referenceConfigurationIsWellFormed : Obligations.ReferenceConfigurationIsWellFormed := by
  unfold Obligations.ReferenceConfigurationIsWellFormed wellFormedCfg
  decide +kernel

/-- Settles O35: the run's digest is `NLCHash(ST_MSG)`, so PASS and FAIL are the two values of the well-formedness condition. -/
theorem nameCommandRunsTheSelfTest : Obligations.NameCommandRunsTheSelfTest := by
  refine ⟨fun C s hp => ?_, fun s hp => ?_⟩
  · obtain ⟨-, -, hlegal⟩ := commandLegal_of_idle hp
    rw [runCommand_of_legal C .name s hlegal]
    by_cases hwf : wellFormedCfg C
    · obtain ⟨b, heq⟩ := nameCommand_of_wellFormed s hwf
      exact ⟨b, .fresh, .pass, s.err, heq, fun _ => ⟨rfl, rfl, rfl⟩, fun hnot => absurd hwf hnot⟩
    · obtain ⟨b, heq⟩ := nameCommand_of_not_wellFormed s hwf
      exact ⟨b, .fatal, .fail, _, heq, fun h => absurd h hwf, fun _ => ⟨rfl, rfl, rfl⟩⟩
  · obtain ⟨-, -, hlegal⟩ := commandLegal_of_idle hp
    have hwf : nlcHash cfg stMsg = cfg.stDigest := referenceConfigurationIsWellFormed
    obtain ⟨b, heq⟩ := nameCommand_of_wellFormed s hwf
    refine ⟨b, ?_⟩
    rw [exec_cmdName, runCommand_of_legal cfg .name s hlegal, commandEffect, heq, hwf]
    rfl

/-! ### The hardware reset (70_reset_and_hazards.md R300) -/

/-- Settles O12, field by field of R41. -/
theorem resetStateHasTheSpecValues : Obligations.ResetStateHasTheSpecValues :=
  ⟨rfl, rfl, rfl, rfl, rfl, rfl, fun _ => Vector.getElem_replicate _, rfl, rfl, rfl, rfl, rfl⟩

/-- Settles O13: RST puts the fields of the reset state beside what is the host's. -/
theorem rstGivesEveryFieldItsResetValue : Obligations.RstGivesEveryFieldItsResetValue := fun s =>
  ⟨_, exec_rst s, rfl, rfl, rfl, rfl, rfl, rfl, fun _ => Vector.getElem_replicate _, rfl, rfl, rfl, rfl, rfl, rfl, rfl⟩

end Sys2Proof.Machine

/-! ## The invariants between transactions (10_state.md R36) -/

namespace Sys2Proof.Machine

/-! ### The invariant, phase by phase -/

/-- The part of R36 that holds in every phase but FATAL: no failed self-test on record. -/
def NoFailure (s : State) : Prop := s.st ≠ .fail ∧ s.err.getLsbD 3 = false

theorem Inv.noFailure {C : Cfg} {s : State} (hinv : Inv C s) (hp : s.phase ≠ .fatal) : NoFailure s :=
  ⟨mt hinv.fatal_st.mpr hp, Bool.eq_false_iff.mpr (mt hinv.fatal_err.mpr hp)⟩

/-- A phase other than FATAL asks, besides its own clauses, for no failure on record. -/
theorem NoFailure.iffs {s : State} (h : NoFailure s) (hp : s.phase ≠ .fatal) :
    (s.phase = .fatal ↔ s.st = .fail) ∧ (s.phase = .fatal ↔ s.err.getLsbD 3 = true) :=
  ⟨iff_of_false hp h.1, iff_of_false hp (by rw [h.2]; exact Bool.false_ne_true)⟩

theorem inv_of_fresh {C : Cfg} {s : State} (hp : s.phase = .fresh) (hlen : s.len = 0) (hcount : s.bufcnt = 0)
    (hq : s.qmix = 0) (hh : s.h = C.iv) (hrem : s.rem = 0) (hdvalid : s.dvalid = false) (hok : NoFailure s) : Inv C s := by
  obtain ⟨hst, herr⟩ := hok.iffs (by simp [hp])
  constructor <;> simp_all

theorem inv_of_accum {C : Cfg} {s : State} (hp : s.phase = .accum) (hcount : s.bufcnt.val = s.len.toNat % 64)
    (hrem : s.rem = 0) (hok : NoFailure s) : Inv C s := by
  obtain ⟨hst, herr⟩ := hok.iffs (by simp [hp])
  constructor <;> simp_all

theorem inv_of_oneshot {C : Cfg} {s : State} (hp : s.phase = .oneshot) (hcount : s.bufcnt.val = s.len.toNat % 64)
    (hrem : s.rem ≠ 0) (hok : NoFailure s) : Inv C s := by
  obtain ⟨hst, herr⟩ := hok.iffs (by simp [hp])
  constructor <;> simp_all

theorem inv_of_pair {C : Cfg} {s : State} (hp : s.phase = .pair) (hcount : s.len.toNat = s.bufcnt.val) (hh : s.h = C.iv)
    (hq : s.qmix = 0) (hrem : s.rem ≠ 0) (hok : NoFailure s) : Inv C s := by
  obtain ⟨hst, herr⟩ := hok.iffs (by simp [hp])
  constructor <;> simp_all

theorem inv_of_finalized {C : Cfg} {s : State} (hp : s.phase = .finalized) (hcount : s.bufcnt = 0) (hrem : s.rem = 0)
    (hok : NoFailure s) : Inv C s := by
  obtain ⟨hst, herr⟩ := hok.iffs (by simp [hp])
  constructor <;> simp_all

theorem inv_of_fatal {C : Cfg} {s : State} (hp : s.phase = .fatal) (hcount : s.bufcnt = 0) (hrem : s.rem = 0)
    (hst : s.st = .fail) (herr : s.err.getLsbD 3 = true) : Inv C s := by
  constructor <;> simp_all

/-- Settles O37: the clauses of FRESH, and no failure on record. -/
theorem resetStateSatisfiesTheInvariant : Obligations.ResetStateSatisfiesTheInvariant :=
  inv_of_fresh rfl rfl rfl rfl rfl rfl rfl ⟨by decide, by decide⟩

/-! ### What says nothing to the invariant: responses, `ARG`, the host's list, and the error bits but SELFTEST -/

theorem Inv.respond {C : Cfg} {s : State} (h : Inv C s) (ok : Bool) (v : Word) : Inv C (s.respond ok v) :=
  ⟨h.fresh, h.count, h.oneshot, h.pair, h.done, h.rem, h.fatal_st, h.fatal_err⟩

theorem Inv.with_arg {C : Cfg} {s : State} (h : Inv C s) (a : Count) : Inv C { s with arg := a } :=
  ⟨h.fresh, h.count, h.oneshot, h.pair, h.done, h.rem, h.fatal_st, h.fatal_err⟩

theorem Inv.taken {C : Cfg} {s : State} (h : Inv C s) (rest : List TxWord) : Inv C (taken rest s) :=
  ⟨h.fresh, h.count, h.oneshot, h.pair, h.done, h.rem, h.fatal_st, h.fatal_err⟩

theorem Inv.raise {C : Cfg} {s : State} (h : Inv C s) {b : ErrBit} (hb : b ≠ .selftest) : Inv C (s.raise b) := by
  have hbit : (s.raise b).err.getLsbD 3 = s.err.getLsbD 3 := by
    rw [raise_err, BitVec.getLsbD_or]
    cases b with
    | selftest => exact absurd rfl hb
    | _ => simp [errMask]
  exact ⟨h.fresh, h.count, h.oneshot, h.pair, h.done, h.rem, h.fatal_st, by rw [hbit]; exact h.fatal_err⟩

/-! ### One pushed byte -/

/-- Outside PAIR a counted byte keeps `BUFCNT = LEN mod 64`, at the wrap of `LEN` too (log entry 15). -/
theorem countByte_count (C : Cfg) (b : Byte) {s : State} (hp : s.phase ≠ .pair) (h : s.bufcnt.val = s.len.toNat % 64) :
    (countByte C b s).bufcnt.val = (countByte C b s).len.toNat % 64 := by
  have hlen : (s.len + 1).toNat % 64 = (s.len.toNat + 1) % 64 := by bv_omega
  by_cases hc : s.bufcnt = 63
  · rw [countByte_of_full_not_pair C b hp hc, compressBlock_bufcnt, compressBlock_len, storeByte_len, hlen]
    simp only [hc] at h
    change 0 = _
    omega
  · rw [countByte_of_room C b s hc]
    change (s.bufcnt + 1).val = (s.len + 1).toNat % 64
    rw [Fin.val_add_one_of_lt' (by omega), hlen]
    omega

theorem NoFailure.countByte {s : State} (h : NoFailure s) (C : Cfg) (b : Byte) : NoFailure (countByte C b s) := by
  obtain ⟨-, hst, herr, -⟩ := countByte_frame C b s
  unfold NoFailure
  rwa [hst, herr]

theorem NoFailure.finalize {s : State} (h : NoFailure s) (C : Cfg) : NoFailure (finalize C s) := by
  unfold NoFailure
  rwa [finalize_st, finalize_err]

theorem inv_finalize (C : Cfg) {s : State} (hrem : s.rem = 0) (hok : NoFailure s) : Inv C (finalize C s) :=
  inv_of_finalized (finalize_phase C s) (finalize_bufcnt C s) ((finalize_rem C s).trans hrem) (hok.finalize C)

theorem inv_pushByte_of_streaming {C : Cfg} {s : State} (b : Byte) (h : Inv C s) (hp : s.phase = .fresh ∨ s.phase = .accum) :
    Inv C (pushByte C b s) := by
  obtain ⟨hpair, honeshot, hfatal⟩ : s.phase ≠ .pair ∧ s.phase ≠ .oneshot ∧ s.phase ≠ .fatal := by
    rcases hp with hp | hp <;> simp [hp]
  have hcount : s.bufcnt.val = s.len.toNat % 64 := by
    obtain hfresh | haccum := hp
    · obtain ⟨hlen, hbuf, -⟩ := h.fresh hfresh
      rw [hlen, hbuf]
      rfl
    · exact h.count (.inl haccum)
  have hphase := pushByte_phase_of_streaming C b hp
  rw [pushByte_of_streaming C b hp] at hphase ⊢
  exact inv_of_accum hphase (countByte_count C b hpair hcount)
    ((countByte_rem_of_not_pair C b hpair).trans (h.rem honeshot hpair)) ((h.noFailure hfatal).countByte C b)

theorem inv_pushByte_of_oneshot {C : Cfg} {s : State} (b : Byte) (h : Inv C s) (hp : s.phase = .oneshot) :
    Inv C (pushByte C b s) := by
  obtain ⟨hpush, hphase, hrem⟩ := pushByte_of_oneshot C b hp
  have hok := (h.noFailure (by simp [hp])).countByte C b
  have hcount := countByte_count C b (by simp [hp]) (h.count (.inr hp))
  rw [hpush]
  by_cases hlast : (countByte C b s).rem - 1 = 0
  · rw [countDown_of_last C _ hphase hlast]
    exact inv_finalize C rfl hok
  · rw [countDown_of_more C _ hphase hlast]
    exact inv_of_oneshot hphase hcount hlast hok

theorem inv_pushByte_of_pair {C : Cfg} {s : State} (b : Byte) (h : Inv C s) (hp : s.phase = .pair) :
    Inv C (pushByte C b s) := by
  obtain ⟨hrem, hlen, hh, hq⟩ := h.pair hp
  have hok := h.noFailure (by simp [hp])
  by_cases hc : s.bufcnt = 63
  · have hfull : s.len = 63 := BitVec.eq_of_toNat_eq (by rw [hlen, hc]; rfl)
    rw [pushByte_of_pair_full C b hp hc hh hq hfull]
    by_cases hlast : s.rem = 1
    · exact inv_of_finalized (if_pos hlast) rfl (by simp [hlast]) hok
    · exact inv_of_pair (if_neg hlast) rfl hh hq (mt (count_sub_one_eq_zero_iff _).mp hlast) hok
  · rw [pushByte_of_pair_room C b hp (by omega)]
    refine inv_of_pair hp ?_ hh hq hrem hok
    change (s.len + 1).toNat = (s.bufcnt + 1).val
    rw [Fin.val_add_one_of_lt' (by omega), ← hlen]
    bv_omega

theorem inv_pushByte {C : Cfg} {s : State} (b : Byte) (h : Inv C s) : Inv C (pushByte C b s) := by
  cases hp : s.phase with
  | fresh => exact inv_pushByte_of_streaming b h (.inl hp)
  | accum => exact inv_pushByte_of_streaming b h (.inr hp)
  | oneshot => exact inv_pushByte_of_oneshot b h hp
  | pair => exact inv_pushByte_of_pair b h hp
  | finalized => exact pushByte_of_closed C b s (.inl hp) ▸ h.raise (by decide)
  | fatal => exact pushByte_of_closed C b s (.inr hp) ▸ h.raise (by decide)

theorem inv_pushBytes {C : Cfg} {s : State} (bs : List Byte) (h : Inv C s) : Inv C (pushBytes C bs s) := by
  induction bs generalizing s with
  | nil => exact h
  | cons b bs ih => exact ih (inv_pushByte b h)

/-! ### Commands -/

theorem inv_hashCommand (C : Cfg) {s : State} (hok : NoFailure s) : Inv C (hashCommand C s) := by
  by_cases hempty : s.arg = 0
  · rw [hashCommand_of_empty C s hempty]
    exact inv_finalize C rfl hok
  · rw [hashCommand_of_length C s hempty]
    exact inv_of_oneshot rfl rfl hempty hok

theorem inv_pairCommand (C : Cfg) {s : State} (hok : NoFailure s) : Inv C (pairCommand C s) := by
  by_cases hnone : s.arg = 0
  · rw [pairCommand_of_none C s hnone]
    exact inv_of_finalized rfl rfl rfl hok
  · rw [pairCommand_of_count C s hnone]
    exact inv_of_pair rfl rfl rfl rfl hnone hok

/-- NAME ends in FRESH with PASS, or in FATAL with the two records of R255. -/
theorem inv_nameCommand (C : Cfg) {s : State} (hok : NoFailure s) : Inv C (nameCommand C s) := by
  by_cases hwf : wellFormedCfg C
  · obtain ⟨b, heq⟩ := nameCommand_of_wellFormed s hwf
    rw [heq]
    exact inv_of_fresh rfl rfl rfl rfl rfl rfl rfl ⟨by simp, hok.2⟩
  · obtain ⟨b, heq⟩ := nameCommand_of_not_wellFormed s hwf
    rw [heq]
    exact inv_of_fatal rfl rfl rfl rfl (by simp)

theorem inv_runCommand {C : Cfg} {s : State} (c : Command) (h : Inv C s) : Inv C (runCommand C c s) := by
  cases hlegal : commandLegal c s.phase with
  | false => exact runCommand_of_illegal C c s hlegal ▸ h.raise (by decide)
  | true =>
    have hfatal : s.phase ≠ .fatal := by
      intro hp
      rw [hp] at hlegal
      cases c <;> simp [commandLegal] at hlegal
    have hok := h.noFailure hfatal
    rw [runCommand_of_legal C c s hlegal]
    cases c with
    | reset => exact inv_of_fresh rfl rfl rfl rfl rfl rfl rfl hok
    | final =>
      have hrem : s.rem = 0 := by
        refine h.rem ?_ ?_ <;> intro hp <;> simp [hp, commandLegal] at hlegal
      exact inv_finalize C hrem hok
    | hash => exact inv_hashCommand C hok
    | pair => exact inv_pairCommand C hok
    | name => exact inv_nameCommand C hok

/-! ### Transactions and steps -/

theorem inv_perform {C : Cfg} {s : State} (t : Txn) (h : Inv C s) : Inv C (perform C t s) :=
  perform_of_cases C t s
    (bus := (h.raise (by decide)).respond _ _)
    (read := fun _ => h.respond _ _)
    (argLo := fun _ => (h.with_arg _).respond _ _)
    (argHi := fun _ => (h.with_arg _).respond _ _)
    (illcmd := (h.raise (by decide)).respond _ _)
    (command := fun c => (inv_runCommand c h).respond _ _)
    (push := fun bs => (inv_pushBytes bs h).respond _ _)
    (rst := fun _ => inv_of_fresh rfl rfl rfl rfl rfl rfl rfl ⟨by simp [rstTransaction], by simp [rstTransaction]⟩)

theorem inv_performWord {C : Cfg} {s : State} (w : TxWord) (h : Inv C s) : Inv C (performWord C w s) := by
  cases hdec : decode w with
  | ok i => exact performWord_of_decode_ok C s hdec ▸ inv_perform _ h
  | error m => exact performWord_of_decode_error C s hdec ▸ (h.raise (by decide)).respond _ _

/-- Settles O38: a step takes a word off the host's list and performs it; each outcome of a word keeps the invariant. -/
theorem everyStepKeepsTheInvariant : Obligations.EveryStepKeepsTheInvariant := by
  refine ⟨fun s t h hstep => ?_, fun C w s h => inv_performWord w h⟩
  cases hinbox : s.inbox with
  | nil =>
    rw [step_of_empty hinbox] at hstep
    exact Host.Outcome.next.inj hstep ▸ h
  | cons w rest =>
    rw [step_eq_performWord hinbox] at hstep
    exact Host.Outcome.next.inj hstep ▸ inv_performWord w (h.taken rest)

end Sys2Proof.Machine

/-! ## The data phase of PAIR (47_oneshot_pair.md R237 to R239) -/

namespace Sys2Proof.Machine

/-- What the core holds after the first bytes `m` of an input, fewer than 64, were pushed in PAIR from the state `s`: they are in
`BUF`, counted, and nothing else changed (46_streaming.md R205). -/
structure PairFilled (m : List Byte) (s t : State) : Prop where
  frame : t = { s with buf := t.buf, bufcnt := t.bufcnt, len := t.len }
  len : t.len = BitVec.ofNat 64 m.length
  bufcnt : t.bufcnt.val = m.length
  buf : ∀ i (hi : i < 64), i < m.length → t.buf[i] = (blockAt m 0)[i]

/-- The byte after the first ones of an input stands at the next place of the input's block. -/
theorem PairFilled.setIfInBounds_buf {m : List Byte} {s t : State} (h : PairFilled m s t) (b : Byte) {i : Nat} (hi : i < 64)
    (hle : i ≤ m.length) : (t.buf.setIfInBounds t.bufcnt.val b)[i] = (blockAt (m ++ [b]) 0)[i] := by
  rw [h.bufcnt, Vector.getElem_setIfInBounds, blockAt_getElem, Nat.mul_zero, Nat.zero_add]
  split_ifs with heq
  · rw [← heq, List.getD_append_right _ _ _ _ le_rfl, Nat.sub_self, List.getD_cons_zero]
  · rw [h.buf i hi (by omega), blockAt_getElem, Nat.mul_zero, Nat.zero_add, List.getD_append _ _ _ _ (by omega)]

theorem PairFilled.pushByte {C : Cfg} {m : List Byte} {s t : State} (h : PairFilled m s t) (b : Byte)
    (hp : s.phase = .pair) (hroom : m.length < 63) : PairFilled (m ++ [b]) s (pushByte C b t) := by
  have hcount := h.bufcnt
  have hphase : t.phase = .pair := by rw [h.frame]; exact hp
  rw [pushByte_of_pair_room C b hphase (by omega)]
  constructor
  case frame => rw [h.frame]
  case len => rw [← ofNat_length_concat, ← h.len]
  case bufcnt =>
    rw [List.length_append, List.length_singleton, ← hcount]
    exact Fin.val_add_one_of_lt' (by omega)
  case buf =>
    intro i hi hlt
    rw [List.length_append, List.length_singleton] at hlt
    exact h.setIfInBounds_buf b hi (by omega)

theorem pairFilled_pushBytes (C : Cfg) {s : State} (hp : s.phase = .pair) (hlen : s.len = 0) (hcount : s.bufcnt = 0)
    {m : List Byte} (hm : m.length ≤ 63) : PairFilled m s (pushBytes C m s) := by
  induction m using List.reverseRecOn with
  | nil => exact ⟨rfl, hlen, by rw [pushBytes_nil, hcount]; rfl, by simp⟩
  | append_singleton m b ih =>
    rw [List.length_append, List.length_singleton] at hm
    rw [pushBytes_append, pushBytes_cons, pushBytes_nil]
    exact (ih (by omega)).pushByte b hp (by omega)

/-- The 64 bytes of an input, of which 63 fill the buffer and the last one has the block transformed. -/
theorem pushBytes_pair_input (C : Cfg) {s : State} (hinv : Inv C s) (hp : s.phase = .pair) (hcount : s.bufcnt = 0)
    {m : List Byte} (hm : m.length = 64) :
    pushBytes C m s = { s with
      buf := blockAt m 0, out := pairT C (blockAt m 0), dvalid := true, nfired := C.npred (blockAt m 0)[0] 64, bufcnt := 0,
      len := 0, rem := s.rem - 1, phase := if s.rem = 1 then .finalized else .pair } := by
  obtain ⟨-, hzero, hh, hq⟩ := hinv.pair hp
  have hlen : s.len = 0 := BitVec.eq_of_toNat_eq (by rw [hzero, hcount]; rfl)
  obtain rfl | ⟨m, b, rfl⟩ := List.eq_nil_or_concat' m
  · simp at hm
  rw [List.length_append, List.length_singleton] at hm
  have hfilled := pairFilled_pushBytes C hp hlen hcount (m := m) (by omega)
  rw [pushBytes_append, pushBytes_cons, pushBytes_nil]
  generalize pushBytes C m s = t at hfilled
  have hfull : t.bufcnt = 63 := Fin.ext (by rw [hfilled.bufcnt]; omega)
  have hblock : t.buf.set 63 b = blockAt (m ++ [b]) 0 := by
    apply Vector.ext
    intro i hi
    rw [← hfilled.setIfInBounds_buf b hi (by omega), hfull, ← storeAt_eq_setIfInBounds]
    rfl
  have hlast : t.len = 63 := by
    rw [hfilled.len, show m.length = 63 by omega]
    rfl
  obtain ⟨hphase, hth, htq, hrem⟩ : t.phase = s.phase ∧ t.h = s.h ∧ t.qmix = s.qmix ∧ t.rem = s.rem := by
    rw [hfilled.frame]
    exact ⟨rfl, rfl, rfl, rfl⟩
  rw [pushByte_of_pair_full C b (hphase.trans hp) hfull (hth.trans hh) (htq.trans hq) hlast, hblock, hrem]
  rw [hfilled.frame]

/-- Settles O44: the run pushes the 64 bytes, whatever their grouping. -/
theorem pairGivesPairTForEachInput : Obligations.PairGivesPairTForEachInput := by
  intro p s hinv hp hcount hpush hm
  obtain ⟨-, -, hh, hq⟩ := hinv.pair hp
  refine ⟨_, runInstrs_of_pushes s hpush, ?_⟩
  rw [pushBytes_pair_input cfg hinv hp hcount hm]
  exact ⟨rfl, rfl, rfl, rfl, hh, hq, rfl, rfl, rfl⟩

end Sys2Proof.Machine

/-! ## What the digest-ready test says after HASH (47_oneshot_pair.md R234, R235; 70_reset_and_hazards.md R316) -/

namespace Sys2Proof.Machine

/-- With fewer bytes than announced the core still waits in ONESHOT. -/
theorem Absorbed.pushBytes_oneshot_short {C : Cfg} {m : List Byte} {s : State} (hs : Absorbed C m s) (hp : s.phase = .oneshot)
    {bs : List Byte} (hr : bs.length < s.rem.toNat) : (pushBytes C bs s).phase = .oneshot := by
  induction bs generalizing m s with
  | nil => exact hp
  | cons b bs ih =>
    rw [List.length_cons] at hr
    obtain ⟨habsorbed, hrem⟩ := hs.pushByte_oneshot_more b hp (by omega)
    rw [pushBytes_cons]
    exact ih habsorbed (pushByte_phase_of_oneshot_more C b hp (by omega)) (by omega)

theorem hashCommand_pushBytes_short (C : Cfg) {m : List Byte} {s : State} (hlen : m.length < s.arg.toNat) :
    (pushBytes C m (hashCommand C s)).phase = .oneshot := by
  have harg : s.arg ≠ 0 := by
    intro hzero
    rw [hzero] at hlen
    exact Nat.not_lt_zero _ hlen
  have hstart : Absorbed C [] { softReset C s with rem := s.arg, phase := .oneshot } := absorbed_nil rfl rfl rfl rfl
  rw [hashCommand_of_length C s harg]
  exact hstart.pushBytes_oneshot_short rfl hlen

/-- With more bytes than announced the first one too many raises Err(SEQ) (46_streaming.md R205). -/
theorem hashCommand_pushBytes_long (C : Cfg) {m : List Byte} {s : State} (hlen : s.arg.toNat < m.length) :
    (pushBytes C m (hashCommand C s)).err = s.err ||| errMask .seq := by
  obtain ⟨hdone, -, herr⟩ := hashCommand_pushBytes_digested C (m.take s.arg.toNat) s
    (by rw [List.length_take_of_le hlen.le])
  obtain ⟨b, rest, hrest⟩ := List.exists_cons_of_ne_nil
    (show m.drop s.arg.toNat ≠ [] by rw [Ne, List.drop_eq_nil_iff]; omega)
  rw [← List.take_append_drop s.arg.toNat m, hrest, pushBytes_append, pushBytes_of_closed C b rest (.inl hdone.phase),
    raise_err, herr]

/-- Setting SEQ changes an `ERR` in which it is clear. -/
theorem err_or_seq_ne {e : BitVec 4} (h : e.getLsbD 0 = false) : e ||| errMask .seq ≠ e := by
  intro heq
  have hbit := congrArg (BitVec.getLsbD · 0) heq
  simp only [BitVec.getLsbD_or, h] at hbit
  exact absurd hbit (by decide)

/-- Settles O49: as many bytes as announced give the digest; with fewer the phase tells, with more the SEQ bit. -/
theorem digestReadyMeansDigestOfThePushedBytes : Obligations.DigestReadyMeansDigestOfThePushedBytes := by
  intro p s t hp hseq hpush hrun
  rw [runInstrs_cons_of_exec p (exec_cmdHash_of_legal hp), runInstrs_of_pushes _ hpush, State.respond,
    pushBytes_with_responses] at hrun
  obtain rfl := (Host.Outcome.next.inj hrun).symm
  have hready : digestReady s (pushBytes cfg (messageOf p) (hashCommand cfg s)) ↔ (messageOf p).length = s.arg.toNat := by
    refine ⟨fun ⟨hphase, _, herr⟩ => ?_, fun hlen => ?_⟩
    · rcases Nat.lt_trichotomy (messageOf p).length s.arg.toNat with hshort | heq | hlong
      · rw [hashCommand_pushBytes_short cfg hshort] at hphase
        exact absurd hphase (by decide)
      · exact heq
      · rw [hashCommand_pushBytes_long cfg hlong] at herr
        exact absurd herr (err_or_seq_ne hseq)
    · obtain ⟨hdone, -, herr⟩ := hashCommand_pushBytes_digested cfg (messageOf p) s hlen.symm
      exact ⟨hdone.phase, hdone.dvalid, herr⟩
  refine ⟨hready, fun hdigest => ?_⟩
  obtain ⟨hdone, -⟩ := hashCommand_pushBytes_digested cfg (messageOf p) s (hready.mp hdigest).symm
  exact hdone.out

end Sys2Proof.Machine

/-! ## What the stale bytes of BUF and an earlier message cannot influence (10_state.md R37, 46_streaming.md R218) -/

namespace Sys2Proof.Machine

/-! ### Cores that go on alike -/

/-- Two cores that agree on all that pushes and FINAL read: the bytes of `BUF` below `BUFCNT`, not the stale ones above. They also
agree on `OUT` where there is a digest, or in every case when `outs` asks for it. -/
structure Alike (outs : Prop) (s t : State) : Prop where
  h : s.h = t.h
  qmix : s.qmix = t.qmix
  len : s.len = t.len
  rem : s.rem = t.rem
  bufcnt : s.bufcnt = t.bufcnt
  phase : s.phase = t.phase
  dvalid : s.dvalid = t.dvalid
  nfired : s.nfired = t.nfired
  buf : ∀ i (hi : i < 64), i < s.bufcnt.val → s.buf[i] = t.buf[i]
  out : outs ∨ s.dvalid = true → s.out = t.out

section Alike

variable {outs : Prop} {s t : State}

theorem Alike.respond (hst : Alike outs s t) (ok : Bool) (v : Word) : Alike outs (s.respond ok v) (t.respond ok v) :=
  ⟨hst.h, hst.qmix, hst.len, hst.rem, hst.bufcnt, hst.phase, hst.dvalid, hst.nfired, hst.buf, hst.out⟩

theorem Alike.raise (hst : Alike outs s t) (b : ErrBit) : Alike outs (s.raise b) (t.raise b) :=
  ⟨hst.h, hst.qmix, hst.len, hst.rem, hst.bufcnt, hst.phase, hst.dvalid, hst.nfired, hst.buf, hst.out⟩

/-- The same block put into both buffers. -/
theorem Alike.with_buf (hst : Alike outs s t) (b : Block) : Alike outs { s with buf := b } { t with buf := b } :=
  ⟨hst.h, hst.qmix, hst.len, hst.rem, hst.bufcnt, hst.phase, hst.dvalid, hst.nfired, fun _ _ _ => rfl, hst.out⟩

theorem Alike.with_rem (hst : Alike outs s t) (r : Count) : Alike outs { s with rem := r } { t with rem := r } :=
  ⟨hst.h, hst.qmix, hst.len, rfl, hst.bufcnt, hst.phase, hst.dvalid, hst.nfired, hst.buf, hst.out⟩

theorem Alike.with_phase (hst : Alike outs s t) (p : Phase) : Alike outs { s with phase := p } { t with phase := p } :=
  ⟨hst.h, hst.qmix, hst.len, hst.rem, hst.bufcnt, rfl, hst.dvalid, hst.nfired, hst.buf, hst.out⟩

/-- A full buffer has no stale bytes, and its compression leaves only stale ones. -/
theorem Alike.compressBlock (hst : Alike outs s t) (hbuf : s.buf = t.buf) (C : Cfg) :
    Alike outs (compressBlock C s) (compressBlock C t) := by
  have hblock : compress C s.h s.qmix s.buf s.len = compress C t.h t.qmix t.buf t.len := by
    rw [hst.h, hst.qmix, hbuf, hst.len]
  exact ⟨congrArg Compressed.h hblock, congrArg Compressed.q hblock, hst.len, hst.rem, rfl, hst.phase, hst.dvalid,
    congrArg Compressed.act hblock, fun i _ hlt => absurd hlt (Nat.not_lt_zero i), hst.out⟩

theorem Alike.serOut (hst : Alike outs s t) : Alike outs (serOut s) (serOut t) :=
  ⟨hst.h, hst.qmix, hst.len, hst.rem, hst.bufcnt, hst.phase, rfl, hst.nfired, hst.buf, fun _ => congrArg serialize hst.h⟩

theorem Alike.pairBlockDone (hst : Alike outs s t) (C : Cfg) : Alike outs (pairBlockDone C s) (pairBlockDone C t) where
  h := rfl
  qmix := rfl
  len := rfl
  rem := by rw [pairBlockDone_rem, pairBlockDone_rem, hst.rem]
  bufcnt := hst.bufcnt
  phase := by rw [pairBlockDone_phase, pairBlockDone_phase, hst.rem, hst.phase]
  dvalid := rfl
  nfired := hst.nfired
  buf := hst.buf
  out _ := congrArg serialize hst.h

theorem Alike.blockFull (hst : Alike outs s t) (hbuf : s.buf = t.buf) (C : Cfg) :
    Alike outs (blockFull C s) (blockFull C t) := by
  by_cases hp : s.phase = .pair
  · rw [blockFull_of_pair C s hp, blockFull_of_pair C t (hst.phase ▸ hp)]
    exact (hst.compressBlock hbuf C).pairBlockDone C
  · rw [blockFull_of_not_pair C s hp, blockFull_of_not_pair C t (hst.phase ▸ hp)]
    exact hst.compressBlock hbuf C

/-- A stored byte extends what the two buffers agree on. -/
theorem Alike.storeAt_buf (hst : Alike outs s t) (x : Byte) {i : Nat} (hi : i < 64) (hle : i ≤ s.bufcnt.val) :
    (storeAt s.bufcnt x s.buf)[i] = (storeAt t.bufcnt x t.buf)[i] := by
  rw [storeAt_getElem, storeAt_getElem, ← hst.bufcnt]
  split_ifs with heq
  · rfl
  · exact hst.buf i hi (by omega)

theorem Alike.storeByte (hst : Alike outs s t) (b : Byte) : Alike outs (storeByte b s) (storeByte b t) :=
  ⟨hst.h, hst.qmix, congrArg (· + 1) hst.len, hst.rem, hst.bufcnt,
    by rw [storeByte_phase, storeByte_phase, hst.phase], hst.dvalid, hst.nfired,
    fun _ hi hlt => hst.storeAt_buf b hi (Nat.le_of_lt hlt), hst.out⟩

theorem Alike.countByte (hst : Alike outs s t) (C : Cfg) (b : Byte) : Alike outs (countByte C b s) (countByte C b t) := by
  by_cases hc : s.bufcnt = 63
  · have hfull : (Machine.storeByte b s).buf = (Machine.storeByte b t).buf :=
      Vector.ext fun i hi => hst.storeAt_buf b hi (by rw [hc]; exact Nat.le_of_lt_succ hi)
    rw [countByte_of_full C b s hc, countByte_of_full C b t (hst.bufcnt ▸ hc)]
    exact (hst.storeByte b).blockFull hfull C
  · have hstored := hst.storeByte b
    rw [countByte_of_room C b s hc, countByte_of_room C b t (hst.bufcnt ▸ hc)]
    refine ⟨hstored.h, hstored.qmix, hstored.len, hstored.rem, congrArg (· + 1) hst.bufcnt, hstored.phase, hstored.dvalid,
      hstored.nfired, fun i hi hlt => hst.storeAt_buf b hi ?_, hstored.out⟩
    have hnext : (s.bufcnt + 1).val = s.bufcnt.val + 1 := Fin.val_add_one_of_lt' (by omega)
    change i < (s.bufcnt + 1).val at hlt
    omega

/-- Zeros cover the stale bytes above the marker. -/
theorem Alike.fillZero_buf (hst : Alike outs s t) {i hi : Nat} (h64 : i < 64) (hlt : i < hi) :
    (fillZero (s.bufcnt.val + 1) hi (storeAt s.bufcnt 0x80 s.buf))[i] =
      (fillZero (t.bufcnt.val + 1) hi (storeAt t.bufcnt 0x80 t.buf))[i] := by
  rw [fillZero_getElem, fillZero_getElem, hst.bufcnt]
  split_ifs with hzero
  · rfl
  · rw [← hst.storeAt_buf 0x80 h64 (by rw [hst.bufcnt]; omega), hst.bufcnt]

/-- The padded blocks hold no stale byte: the zeros and the length cover them (41_padding.md R122). -/
theorem Alike.padFinal (hst : Alike outs s t) (C : Cfg) : Alike outs (padFinal C s) (padFinal C t) := by
  by_cases hc : 56 < s.bufcnt.val + 1
  · have hblock : fillZero (s.bufcnt.val + 1) 64 (storeAt s.bufcnt 0x80 s.buf) =
        fillZero (t.bufcnt.val + 1) 64 (storeAt t.bufcnt 0x80 t.buf) := Vector.ext fun i hi => hst.fillZero_buf hi hi
    have hlast (b : Block) : putLength s.len.toNat b = putLength t.len.toNat b := by rw [hst.len]
    rw [padFinal_of_spill C s hc, padFinal_of_spill C t (hst.bufcnt ▸ hc), ← hblock]
    simp only [← hlast]
    exact (((hst.with_buf _).compressBlock rfl C).with_buf _).compressBlock rfl C
  · have hblock : putLength s.len.toNat (fillZero (s.bufcnt.val + 1) 56 (storeAt s.bufcnt 0x80 s.buf)) =
        putLength t.len.toNat (fillZero (t.bufcnt.val + 1) 56 (storeAt t.bufcnt 0x80 t.buf)) := by
      apply Vector.ext
      intro i hi
      rw [putLength_getElem, putLength_getElem, hst.len]
      split_ifs with hlength
      · rfl
      · exact hst.fillZero_buf hi (by omega)
    rw [padFinal_of_room C s hc, padFinal_of_room C t (hst.bufcnt ▸ hc), ← hblock]
    exact (hst.with_buf _).compressBlock rfl C

theorem Alike.finalize (hst : Alike outs s t) (C : Cfg) : Alike outs (finalize C s) (finalize C t) := by
  rw [Machine.finalize, Machine.finalize]
  exact (hst.padFinal C).serOut.with_phase .finalized

theorem Alike.countDown (hst : Alike outs s t) (C : Cfg) : Alike outs (countDown C s) (countDown C t) := by
  by_cases hp : s.phase = .oneshot
  · by_cases hr : s.rem - 1 = 0
    · rw [countDown_of_last C s hp hr, countDown_of_last C t (hst.phase ▸ hp) (hst.rem ▸ hr)]
      exact (hst.with_rem 0).finalize C
    · rw [countDown_of_more C s hp hr, countDown_of_more C t (hst.phase ▸ hp) (hst.rem ▸ hr), ← hst.rem]
      exact hst.with_rem _
  · rw [countDown_of_not_oneshot C s hp, countDown_of_not_oneshot C t (hst.phase ▸ hp)]
    exact hst

theorem Alike.pushByte (hst : Alike outs s t) (C : Cfg) (b : Byte) : Alike outs (pushByte C b s) (pushByte C b t) := by
  by_cases hclosed : s.phase = .finalized ∨ s.phase = .fatal
  · rw [pushByte_of_closed C b s hclosed, pushByte_of_closed C b t (hst.phase ▸ hclosed)]
    exact hst.raise .seq
  · obtain ⟨hfinalized, hfatal⟩ := not_or.mp hclosed
    rw [pushByte_of_open C b s hfinalized hfatal, pushByte_of_open C b t (hst.phase ▸ hfinalized) (hst.phase ▸ hfatal)]
    exact (hst.countByte C b).countDown C

theorem Alike.pushBytes (hst : Alike outs s t) (C : Cfg) (bs : List Byte) :
    Alike outs (pushBytes C bs s) (pushBytes C bs t) := by
  induction bs generalizing s t with
  | nil => exact hst
  | cons b bs ih => exact ih (hst.pushByte C b)

theorem Alike.runCommand_final (hst : Alike outs s t) (C : Cfg) :
    Alike outs (runCommand C .final s) (runCommand C .final t) := by
  cases hlegal : commandLegal .final s.phase with
  | true =>
    rw [runCommand_of_legal C _ s hlegal, runCommand_of_legal C _ t (hst.phase ▸ hlegal)]
    exact hst.finalize C
  | false =>
    rw [runCommand_of_illegal C _ s hlegal, runCommand_of_illegal C _ t (hst.phase ▸ hlegal)]
    exact hst.raise .seq

end Alike

/-! ### After RESET (R218) -/

/-- A run of pushes and FINALs keeps two cores alike. -/
theorem Alike.runInstrs {outs : Prop} {p : List Instr} {s t : State} (hst : Alike outs s t)
    (hp : ∀ i ∈ p, isPush i = true ∨ i = .cmdFinal) :
    ∃ s' t', runInstrs p s = .next s' ∧ runInstrs p t = .next t' ∧ Alike outs s' t' := by
  induction p generalizing s t with
  | nil => exact ⟨s, t, rfl, rfl, hst⟩
  | cons i p ih =>
    obtain ⟨hi, hrest⟩ := List.forall_mem_cons.mp hp
    obtain hpush | rfl := hi
    · rw [runInstrs_cons_of_exec p (exec_of_isPush s hpush), runInstrs_cons_of_exec p (exec_of_isPush t hpush)]
      exact ih ((hst.pushBytes cfg _).respond _ _) hrest
    · rw [runInstrs_cons_of_exec p (exec_cmdFinal s), runInstrs_cons_of_exec p (exec_cmdFinal t)]
      exact ih ((hst.runCommand_final cfg).respond _ _) hrest

/-- Settles O47: after RESET and after RST the cores are alike, since `BUFCNT` is 0 and there is no digest, and they stay so. -/
theorem resetForgetsTheEarlierMessage : Obligations.ResetForgetsTheEarlierMessage := by
  intro p s hfatal hp
  have hstart : Alike False ((resetCommand cfg s).respond true 0) ((hardReset cfg s).respond true 0) :=
    ⟨rfl, rfl, rfl, rfl, rfl, rfl, rfl, rfl, fun i _ hlt => absurd hlt (Nat.not_lt_zero i), by simp [resetCommand]⟩
  obtain ⟨t, u, ht, hu, h⟩ := hstart.runInstrs hp
  refine ⟨t, u, (runInstrs_cons_of_exec p (exec_cmdReset_of_legal hfatal)).trans ht,
    (runInstrs_cons_of_exec p (exec_rst s)).trans hu, h.h, h.qmix, h.len, h.rem, h.bufcnt, h.phase, h.dvalid, h.nfired,
    fun hdigest => h.out (.inr hdigest)⟩

/-! ### The stale bytes (R37) -/

theorem sameUpToStale_iff {s t : State} :
    sameUpToStale s t ↔ ∃ b : Block, t = { s with buf := b } ∧ ∀ i : Fin 64, i.val < s.bufcnt.val → s.buf[i] = b[i] :=
  ⟨fun ⟨heq, hbuf⟩ => ⟨t.buf, heq, hbuf⟩, fun ⟨b, heq, hbuf⟩ => by subst heq; exact ⟨rfl, hbuf⟩⟩

theorem sameUpToStale_refl (s : State) : sameUpToStale s s := ⟨rfl, fun _ _ => rfl⟩

/-- With `BUFCNT = 0` the whole buffer is stale. -/
theorem sameUpToStale_of_empty {s : State} (h : s.bufcnt = 0) (b : Block) : sameUpToStale s { s with buf := b } :=
  ⟨rfl, fun i hlt => absurd hlt (by rw [h]; exact Nat.not_lt_zero _)⟩

section SameUpToStale

variable {s t : State}

theorem sameUpToStale.alike (h : sameUpToStale s t) : Alike True s t := by
  obtain ⟨b, rfl, hbuf⟩ := sameUpToStale_iff.mp h
  exact ⟨rfl, rfl, rfl, rfl, rfl, rfl, rfl, rfl, fun i hi => hbuf ⟨i, hi⟩, fun _ => rfl⟩

/-- Alike cores with the same `OUT` that agree on the fields that say nothing to a hash differ in stale bytes only. -/
theorem Alike.sameUpToStale (h : Alike True s t) (harg : s.arg = t.arg) (hst : s.st = t.st) (herr : s.err = t.err)
    (hinbox : s.inbox = t.inbox) (hresp : s.responses = t.responses) (hcount : s.rstCount = t.rstCount) :
    sameUpToStale s t := by
  refine ⟨?_, fun i => h.buf i i.isLt⟩
  rw [h.h, h.qmix, h.len, h.rem, h.bufcnt, h.phase, h.dvalid, h.nfired, h.out (.inl trivial), harg, hst, herr, hinbox, hresp,
    hcount]

theorem sameUpToStale.respond (h : sameUpToStale s t) (ok : Bool) (v : Word) :
    sameUpToStale (s.respond ok v) (t.respond ok v) := by
  obtain ⟨b, rfl, hbuf⟩ := sameUpToStale_iff.mp h
  exact ⟨rfl, hbuf⟩

theorem sameUpToStale.raise (h : sameUpToStale s t) (b : ErrBit) : sameUpToStale (s.raise b) (t.raise b) := by
  obtain ⟨b, rfl, hbuf⟩ := sameUpToStale_iff.mp h
  exact ⟨rfl, hbuf⟩

theorem sameUpToStale.setArgLo (h : sameUpToStale s t) (v : Word) : sameUpToStale (setArgLo v s) (setArgLo v t) := by
  obtain ⟨b, rfl, hbuf⟩ := sameUpToStale_iff.mp h
  exact ⟨rfl, hbuf⟩

theorem sameUpToStale.setArgHi (h : sameUpToStale s t) (v : Word) : sameUpToStale (setArgHi v s) (setArgHi v t) := by
  obtain ⟨b, rfl, hbuf⟩ := sameUpToStale_iff.mp h
  exact ⟨rfl, hbuf⟩

theorem pushByte_err (C : Cfg) (b : Byte) (s : State) :
    (pushByte C b s).err = if s.phase = .finalized ∨ s.phase = .fatal then s.err ||| errMask .seq else s.err := by
  split_ifs with hclosed
  · rw [pushByte_of_closed C b s hclosed, raise_err]
  · obtain ⟨hfinalized, hfatal⟩ := not_or.mp hclosed
    exact pushByte_err_of_open C b hfinalized hfatal

theorem sameUpToStale.pushByte (h : sameUpToStale s t) (C : Cfg) (b : Byte) :
    sameUpToStale (pushByte C b s) (pushByte C b t) := by
  obtain ⟨harg, hst, hinbox, hresp, hcount, -⟩ := pushByte_frame C b s
  obtain ⟨harg', hst', hinbox', hresp', hcount', -⟩ := pushByte_frame C b t
  refine (h.alike.pushByte C b).sameUpToStale ?_ ?_ ?_ ?_ ?_ ?_
  · rw [harg, harg', h.1]
  · rw [hst, hst', h.1]
  · rw [pushByte_err, pushByte_err, h.1]
  · rw [hinbox, hinbox', h.1]
  · rw [hresp, hresp', h.1]
  · rw [hcount, hcount', h.1]

theorem sameUpToStale.pushBytes (h : sameUpToStale s t) (C : Cfg) (bs : List Byte) :
    sameUpToStale (pushBytes C bs s) (pushBytes C bs t) := by
  induction bs generalizing s t with
  | nil => exact h
  | cons b bs ih => exact ih (h.pushByte C b)

theorem sameUpToStale.finalize (h : sameUpToStale s t) (C : Cfg) : sameUpToStale (finalize C s) (finalize C t) := by
  refine (h.alike.finalize C).sameUpToStale ?_ ?_ ?_ ?_ ?_ ?_
  all_goals simp only [finalize_arg, finalize_st, finalize_err, finalize_inbox, finalize_responses, finalize_rstCount]; rw [h.1]

/-- A legal command starts by discarding the buffer, or is FINAL. -/
theorem sameUpToStale.commandEffect (h : sameUpToStale s t) (C : Cfg) (c : Command) :
    sameUpToStale (commandEffect C c s) (commandEffect C c t) := by
  cases c with
  | final => exact h.finalize C
  | reset =>
    obtain ⟨b, rfl, -⟩ := sameUpToStale_iff.mp h
    exact sameUpToStale_of_empty (s := resetCommand C s) rfl b
  | hash =>
    obtain ⟨b, rfl, -⟩ := sameUpToStale_iff.mp h
    change sameUpToStale (hashCommand C s) (hashCommand C { s with buf := b })
    by_cases hempty : s.arg = 0
    · rw [hashCommand_of_empty C s hempty, hashCommand_of_empty C { s with buf := b } hempty]
      exact (sameUpToStale_of_empty (s := softReset C s) rfl b).finalize C
    · rw [hashCommand_of_length C s hempty, hashCommand_of_length C { s with buf := b } hempty]
      exact sameUpToStale_of_empty (s := { softReset C s with rem := s.arg, phase := .oneshot }) rfl b
  | pair =>
    obtain ⟨b, rfl, -⟩ := sameUpToStale_iff.mp h
    change sameUpToStale (pairCommand C s) (pairCommand C { s with buf := b })
    by_cases hnone : s.arg = 0
    · rw [pairCommand_of_none C s hnone, pairCommand_of_none C { s with buf := b } hnone]
      exact sameUpToStale_of_empty (s := { softReset C s with phase := .finalized }) rfl b
    · rw [pairCommand_of_count C s hnone, pairCommand_of_count C { s with buf := b } hnone]
      exact sameUpToStale_of_empty (s := { softReset C s with rem := s.arg, phase := .pair }) rfl b
  | name =>
    obtain ⟨b, rfl, -⟩ := sameUpToStale_iff.mp h
    change sameUpToStale (nameCommand C s) (nameCommand C { s with buf := b })
    by_cases hwf : wellFormedCfg C
    · obtain ⟨b1, heq1⟩ := nameCommand_of_wellFormed s hwf
      obtain ⟨b2, heq2⟩ := nameCommand_of_wellFormed { s with buf := b } hwf
      rw [heq1, heq2]
      exact sameUpToStale_of_empty rfl b2
    · obtain ⟨b1, heq1⟩ := nameCommand_of_not_wellFormed s hwf
      obtain ⟨b2, heq2⟩ := nameCommand_of_not_wellFormed { s with buf := b } hwf
      rw [heq1, heq2]
      exact sameUpToStale_of_empty rfl b2

theorem sameUpToStale.runCommand (h : sameUpToStale s t) (C : Cfg) (c : Command) :
    sameUpToStale (runCommand C c s) (runCommand C c t) := by
  cases hlegal : commandLegal c s.phase with
  | true =>
    rw [runCommand_of_legal C c s hlegal, runCommand_of_legal C c t (h.alike.phase ▸ hlegal)]
    exact h.commandEffect C c
  | false =>
    rw [runCommand_of_illegal C c s hlegal, runCommand_of_illegal C c t (h.alike.phase ▸ hlegal)]
    exact h.raise .seq

theorem sameUpToStale.writeCommand (h : sameUpToStale s t) (C : Cfg) (v : Word) :
    sameUpToStale (writeCommand C v s) (writeCommand C v t) := by
  cases hcmd : commandOf v with
  | none =>
    rw [writeCommand_of_not_command C s hcmd, writeCommand_of_not_command C t hcmd]
    exact h.raise .illcmd
  | some c =>
    rw [writeCommand_of_command C s hcmd, writeCommand_of_command C t hcmd]
    exact h.runCommand C c

/-- No register and no window shows a byte of `BUF` (20_memory.md R51). -/
theorem sameUpToStale.readValue_eq (h : sameUpToStale s t) (C : Cfg) (r : Reg) (off n : Nat) :
    readValue C s r off n = readValue C t r off n := by
  obtain ⟨b, rfl, -⟩ := sameUpToStale_iff.mp h
  cases r <;> rfl

theorem sameUpToStale.perform (h : sameUpToStale s t) (C : Cfg) (x : Txn) :
    sameUpToStale (perform C x s) (perform C x t) := by
  have hbus : sameUpToStale (busError s) (busError t) := (h.raise .bus).respond _ _
  cases x with
  | read n off =>
    change sameUpToStale (busRead C n off s) (busRead C n off t)
    cases hadm : admitted .read n off with
    | none =>
      rw [busRead_of_refused C s hadm, busRead_of_refused C t hadm]
      exact hbus
    | some r =>
      rw [busRead_of_admitted C s hadm, busRead_of_admitted C t hadm, h.readValue_eq]
      exact h.respond _ _
  | write n off v =>
    change sameUpToStale (busWrite C n off v s) (busWrite C n off v t)
    unfold busWrite
    cases admitted .write n off with
    | none => exact hbus
    | some r =>
      cases r with
      | argLo => exact (h.setArgLo v).respond _ _
      | argHi => exact (h.setArgHi v).respond _ _
      | cmd => exact (h.writeCommand C v).respond _ _
      | msg => exact (h.pushBytes C _).respond _ _
      | _ => exact hbus
  | rst =>
    obtain ⟨b, rfl, -⟩ := sameUpToStale_iff.mp h
    exact sameUpToStale_refl _

end SameUpToStale

/-- Settles O48: no transaction reads a stale byte, and none brings one into play. -/
theorem staleBytesInfluenceNothing : Obligations.StaleBytesInfluenceNothing :=
  fun i s t h => ⟨_, _, exec_eq_perform i s, exec_eq_perform i t, h.perform cfg (txnOf i)⟩

end Sys2Proof.Machine

/-! ## Padding, and the pair transform against the streaming path (41_padding.md R120 to R123, 47_oneshot_pair.md R240) -/

namespace Sys2Proof.Machine

/-- The message, the marker, the zeros and the length are whole blocks: the length fits into the block in which the message ends,
or needs one more (R121). -/
theorem pad_length_eq_blocks (m : List Byte) :
    (pad m).length = 64 * (m.length / 64 + if m.length % 64 ≤ 55 then 1 else 2) := by
  rw [pad_length]
  split_ifs with hfits
  · rw [zeroCount_of_fits hfits]
    omega
  · rw [zeroCount_of_spills (by omega)]
    omega

/-- An element of the padded message that is in range, by its default reading. -/
theorem pad_getElem?_of_getD {m : List Byte} {i : Nat} {x : Byte} (hi : i < (pad m).length) (h : (pad m).getD i 0 = x) :
    (pad m)[i]? = some x := by
  rw [List.getElem?_eq_getElem hi, ← h, List.getD_eq_getElem _ _ hi]

/-- Settles O50: the lengths by the two cases of the last block, the bytes zone by zone. -/
theorem padHasTheContractedShape : Obligations.PadHasTheContractedShape := by
  intro m
  have hblocks := pad_length_eq_blocks m
  have hlength := pad_length m
  have hsplit : pad m = (m ++ [0x80] ++ List.replicate (zeroCount m.length) 0) ++ ser64 (bitlen m.length) := rfl
  refine ⟨?_, ?_, ?_, ?_, fun i hlo hhi => ?_, ?_, ?_⟩
  · rw [hblocks, Nat.mul_mod_right]
  · rw [hblocks, Nat.mul_div_cancel_left _ (by decide)]
  · rw [pad_eq_append, List.take_left]
  · exact pad_getElem?_of_getD (by omega) (pad_getD_marker m)
  · exact pad_getElem?_of_getD (by omega) (pad_getD_zero m hlo (by omega))
  · rw [hlength, hsplit, List.drop_left' (by simp; omega)]
    rfl
  · rw [hblocks]
    split_ifs <;> omega

/-! ### The pair transform (R239, R240) -/

/-- `Compress` reads the length through the predicate only (43_compression.md R140). -/
theorem compress_congr_len (C : Cfg) (h : Words8) (q : Word) (b : Block) {len len' : Count}
    (hact : C.npred b[0] len = C.npred b[0] len') : compress C h q b len = compress C h q b len' := by
  rw [compress, compress, hact]

theorem blockAt_toList (b : Block) : blockAt b.toList 0 = b := by
  apply Vector.ext
  intro i hi
  rw [blockAt_getElem, Nat.mul_zero, Nat.zero_add, List.getD_eq_getElem _ _ (by simpa using hi), Vector.getElem_toList]

/-- Settles O51: 64 streamed bytes are one block, compressed from `IV` with `LEN = 64`; a message of at most 55 bytes pads to one
block, compressed from `IV` with another length. -/
theorem pairTransformAgainstStreaming : Obligations.PairTransformAgainstStreaming := by
  refine ⟨fun C b s hinv hp => ?_, fun C m hshort hact => ?_⟩
  · obtain ⟨habsorbed, -⟩ := (hinv.absorbed_nil hp).pushBytes_streaming (.inl hp) b.toList
    have hchain : messageChain C b.toList 1 = chainBlock C ⟨C.iv, 0⟩ b 64 := by
      rw [messageChain, messageChain, blockAt_toList]
    rw [habsorbed.h, List.nil_append, Vector.length_toList, hchain]
    rfl
  · have hone : hashChain C m = chainBlock C ⟨C.iv, 0⟩ (blockAt (pad m) 0) m.length := by
      have hfits : m.length % 64 ≤ 55 := by omega
      have hzero : m.length / 64 = 0 := by omega
      rw [hashChain_of_fits C m hfits, hzero, messageChain]
    rw [pairT, nlcHash, hone, chainBlock, compress_congr_len C _ _ _ hact]

end Sys2Proof.Machine

/-! ## The neural stage stays below its upper clamp (44_neural.md R165, R166, R168) -/

namespace Sys2Proof.Machine

theorem foldl_add_le {n : Nat} {f g : Fin n → Int} (h : ∀ i, f i ≤ g i) (l : List (Fin n)) {a b : Int} (hab : a ≤ b) :
    l.foldl (fun acc i => acc + f i) a ≤ l.foldl (fun acc i => acc + g i) b := by
  induction l generalizing a b with
  | nil => exact hab
  | cons i l ih => exact ih (Int.add_le_add hab (h i))

theorem sumFin_le {n : Nat} {f g : Fin n → Int} (h : ∀ i, f i ≤ g i) : sumFin f ≤ sumFin g :=
  foldl_add_le h _ le_rfl

/-- A weighted value is at most its bound times the weight, or 0 where the weight is negative. -/
theorem weighted_le {w x b : Int} (h0 : 0 ≤ x) (hx : x ≤ b) : w * x ≤ max w 0 * b :=
  calc w * x ≤ max w 0 * x := mul_le_mul_of_nonneg_right (le_max_left w 0) h0
    _ ≤ max w 0 * b := mul_le_mul_of_nonneg_left hx (le_max_right w 0)

/-- The largest value the weights leave to `pre1[j]`: every register at the top where its weight is positive, 0 elsewhere. -/
def pre1Bound (K : Vector Word 64) (j : Fin 4) : Int :=
  sumFin (fun i => max (weight1 K j i) 0 * 4294967296) + bias1 K j * 4294967296

theorem pre1_le_bound (K : Vector Word 64) (r : Words8) (j : Fin 4) : pre1 K r j ≤ pre1Bound K j := by
  refine Int.add_le_add_right (sumFin_le fun i => weighted_le (Int.natCast_nonneg _) ?_) _
  have := (word8 r i).isLt
  omega

theorem clamp32_nonneg (v : Int) : 0 ≤ clamp32 v := by
  unfold clamp32
  split_ifs <;> omega

theorem clamp32_le {v b : Int} (hb : 0 ≤ b) (h : v ≤ b) : clamp32 v ≤ b := by
  unfold clamp32
  split_ifs <;> omega

/-- The largest value the weights leave to `hid[j]`. -/
def hidBound (K : Vector Word 64) (j : Fin 4) : Int := max (pre1Bound K j / 131072) 0

theorem hid_le_bound (K : Vector Word 64) (r : Words8) (j : Fin 4) : hid K r j ≤ hidBound K j :=
  clamp32_le (le_max_right _ _)
    ((Int.ediv_le_ediv (by decide) (pre1_le_bound K r j)).trans (le_max_left _ _))

/-- The largest value the weights leave to `pre2[k]`. -/
def pre2Bound (K : Vector Word 64) (k : Fin 4) : Int :=
  sumFin (fun j => max (weight2 K k j) 0 * hidBound K j) + bias2 K k * 4294967296

theorem pre2_le_bound (K : Vector Word 64) (r : Words8) (k : Fin 4) : pre2 K r k ≤ pre2Bound K k :=
  Int.add_le_add_right (sumFin_le fun j => weighted_le (clamp32_nonneg _) (hid_le_bound K r j)) _

/-- Under the REF weights the bounds of both layers lie below the clamp. -/
theorem refK_bounds : ∀ j : Fin 4, pre1Bound refK j / 131072 ≤ 4294967295 ∧ pre2Bound refK j / 65536 ≤ 4294967295 := by
  decide

/-- Settles O56: each layer is bounded by what its weights leave, the second by the bounds of the first. -/
theorem neuralLayersStayBelowTheUpperClamp : Obligations.NeuralLayersStayBelowTheUpperClamp := by
  intro r j
  obtain ⟨h1, h2⟩ := refK_bounds j
  exact ⟨(Int.ediv_le_ediv (by decide) (pre1_le_bound refK r j)).trans h1,
    (Int.ediv_le_ediv (by decide) (pre2_le_bound refK r j)).trans h2⟩

end Sys2Proof.Machine

/-! ## The quantum stage: probabilities, and the integer form (45_quantum.md R181 to R190) -/

namespace Sys2Proof.Machine

/-! ### The gates keep the sum of the probabilities (R186) -/

/-- The sum of the four numerators `X^2 + Y^2`. -/
def totalWeight (s : QReg) : Int := weight s.a0 + weight s.a1 + weight s.a2 + weight s.a3

/-- `P^2 + Q^2 = D^2`: the rational parametrisation of the circle (R182). -/
theorem rotParam_circle (n : Nat) :
    (rotParam n).p * (rotParam n).p + (rotParam n).q * (rotParam n).q = (rotParam n).d * (rotParam n).d := by
  simp only [rotParam]
  ring

theorem weight_ry (t : RotParam) (lo hi : GaussInt) :
    weight (ryLo t lo hi) + weight (ryHi t lo hi) = (t.p * t.p + t.q * t.q) * (weight lo + weight hi) := by
  simp only [weight, ryLo, ryHi]
  ring

theorem weight_rzLo (t : RotParam) (lo : GaussInt) : weight (rzLo t lo) = (t.p * t.p + t.q * t.q) * weight lo := by
  simp only [weight, rzLo]
  ring

theorem weight_rzHi (t : RotParam) (hi : GaussInt) : weight (rzHi t hi) = (t.p * t.p + t.q * t.q) * weight hi := by
  simp only [weight, rzHi]
  ring

/-- "The probabilities always sum to 1 exactly", over the common denominator. -/
def Normalised (s : QReg) : Prop := totalWeight s = s.den * s.den

theorem Normalised.ry0 {s : QReg} (h : Normalised s) (n : Nat) : Normalised (ry0 (rotParam n) s) := by
  have hlow := weight_ry (rotParam n) s.a0 s.a1
  have hhigh := weight_ry (rotParam n) s.a2 s.a3
  rw [rotParam_circle] at hlow hhigh
  unfold Normalised totalWeight at *
  simp only [Machine.ry0]
  linear_combination hlow + hhigh + (rotParam n).d * (rotParam n).d * h

theorem Normalised.ry1 {s : QReg} (h : Normalised s) (n : Nat) : Normalised (ry1 (rotParam n) s) := by
  have hlow := weight_ry (rotParam n) s.a0 s.a2
  have hhigh := weight_ry (rotParam n) s.a1 s.a3
  rw [rotParam_circle] at hlow hhigh
  unfold Normalised totalWeight at *
  simp only [Machine.ry1]
  linear_combination hlow + hhigh + (rotParam n).d * (rotParam n).d * h

theorem Normalised.rz0 {s : QReg} (h : Normalised s) (n : Nat) : Normalised (rz0 (rotParam n) s) := by
  unfold Normalised totalWeight at *
  simp only [Machine.rz0, weight_rzLo, weight_rzHi, rotParam_circle]
  linear_combination (rotParam n).d * (rotParam n).d * h

theorem Normalised.rz1 {s : QReg} (h : Normalised s) (n : Nat) : Normalised (rz1 (rotParam n) s) := by
  unfold Normalised totalWeight at *
  simp only [Machine.rz1, weight_rzLo, weight_rzHi, rotParam_circle]
  linear_combination (rotParam n).d * (rotParam n).d * h

theorem Normalised.cnot {s : QReg} (h : Normalised s) : Normalised (cnot s) := by
  unfold Normalised totalWeight at *
  simp only [Machine.cnot]
  linear_combination h

theorem normalised_afterHadamards : Normalised afterHadamards := by
  unfold Normalised
  decide

theorem normalised_finalReg (r : Words8) : Normalised (finalReg r) :=
  ((((normalised_afterHadamards.ry0 _).rz0 _).ry1 _).rz1 _).cnot

/-! ### The denominator (R186) -/

theorem finalReg_den (r : Words8) :
    (finalReg r).den = 2 * (rotParam (angleWord r 0)).d * (rotParam (angleWord r 1)).d * (rotParam (angleWord r 2)).d *
      (rotParam (angleWord r 3)).d := by
  simp only [finalReg, cnot, rz1, ry1, rz0, ry0, afterHadamards]

theorem angleWord_lt (r : Words8) (k : Fin 4) : angleWord r k < 2 ^ 32 := by
  fin_cases k <;> exact BitVec.isLt _

theorem rotParam_d_pos (n : Nat) : 0 < (rotParam n).d := by
  simp only [rotParam]
  positivity

/-- An angle word has 32 bits, so `D` has at most 65. -/
theorem rotParam_d_lt {n : Nat} (h : n < 2 ^ 32) : (rotParam n).d < 2 ^ 65 := by
  have hn : (n : Int) < 2 ^ 32 := by exact_mod_cast h
  have hsquare : (n : Int) * n < 2 ^ 32 * 2 ^ 32 := mul_lt_mul'' hn hn (by positivity) (by positivity)
  simp only [rotParam]
  omega

theorem finalReg_den_pos (r : Words8) : 0 < (finalReg r).den := by
  have hd (k : Fin 4) := rotParam_d_pos (angleWord r k)
  rw [finalReg_den]
  exact mul_pos (mul_pos (mul_pos (mul_pos two_pos (hd 0)) (hd 1)) (hd 2)) (hd 3)

theorem finalReg_den_lt (r : Words8) : (finalReg r).den < 2 ^ 262 := by
  have hpos (k : Fin 4) := (rotParam_d_pos (angleWord r k)).le
  have hlt (k : Fin 4) := rotParam_d_lt (angleWord_lt r k)
  have h01 := mul_lt_mul'' (hlt 0) (hlt 1) (hpos 0) (hpos 1)
  have h23 := mul_lt_mul'' (hlt 2) (hlt 3) (hpos 2) (hpos 3)
  have hall := mul_lt_mul'' h01 h23 (mul_nonneg (hpos 0) (hpos 1)) (mul_nonneg (hpos 2) (hpos 3))
  rw [finalReg_den]
  calc _ = 2 * ((rotParam (angleWord r 0)).d * (rotParam (angleWord r 1)).d *
        ((rotParam (angleWord r 2)).d * (rotParam (angleWord r 3)).d)) := by ring
    _ < 2 * (2 ^ 65 * 2 ^ 65 * (2 ^ 65 * 2 ^ 65)) := mul_lt_mul_of_pos_left hall two_pos
    _ = 2 ^ 261 := by rw [← pow_add, ← pow_add, ← pow_succ']
    _ < 2 ^ 262 := pow_lt_pow_right₀ one_lt_two (Nat.lt_succ_self _)

/-- Settles O54: the Hadamard register is normalised and every gate keeps that; the rotations multiply the denominator. -/
theorem quantumProbabilitiesSumToOne : Obligations.QuantumProbabilitiesSumToOne :=
  fun r => ⟨normalised_finalReg r, finalReg_den r, finalReg_den_lt r⟩

/-! ### The measured outcome (R188) -/

theorem le_firstMax (w : Fin 4 → Int) (j : Fin 4) : w j ≤ w (firstMax w) := by
  have hmax : w (firstMax w) = max (max (w 0) (w 1)) (max (w 2) (w 3)) := by
    unfold firstMax
    dsimp only
    split_ifs with h0 h1 h2
    · exact h0
    · exact h1
    · exact h2
    · omega
  rw [hmax]
  fin_cases j <;> simp

/-- The measured outcome has at least a quarter of the total. -/
theorem den_sq_le_four_outcome {s : QReg} (h : Normalised s) : s.den * s.den ≤ 4 * weight (amp s (outcome s)) := by
  have hmax := le_firstMax fun j => weight (amp s j)
  have h0 := hmax 0
  have h1 := hmax 1
  have h2 := hmax 2
  have h3 := hmax 3
  rw [← h]
  simp only [totalWeight, outcome]
  simp only [amp] at h0 h1 h2 h3 ⊢
  omega

theorem le_saturate32 {v : Int} (h : 0x40000000 ≤ v) : (0x40000000 : Word) ≤ saturate32 v := by
  have hlow : (0x40000000 : Int) ≤ min v 4294967295 := le_min h (by decide)
  have hhigh : min v 4294967295 ≤ 4294967295 := min_le_right _ _
  rw [BitVec.le_def, saturate32, BitVec.toNat_ofInt]
  change 0x40000000 ≤ _
  omega

/-- Settles O55: a quarter of the total, divided by the total. -/
theorem quantumProbabilityWordIsAtLeastAQuarter : Obligations.QuantumProbabilityWordIsAtLeastAQuarter := by
  intro r
  have hquarter := den_sq_le_four_outcome (normalised_finalReg r)
  have hpos := mul_pos (finalReg_den_pos r) (finalReg_den_pos r)
  refine le_saturate32 ((Int.le_ediv_iff_mul_le hpos).mpr ?_)
  omega

end Sys2Proof.Machine

/-! ### The integer form and the rational form (R186) -/

namespace Sys2Proof.Machine

/-- The amplitude with the numerators `X + i*Y` over a denominator (R186). -/
def GaussInt.over (a : GaussInt) (d : Int) : GaussRat := ⟨a.re / d, a.im / d⟩

/-- The amplitudes that a register of numerators stands for (R186). -/
def QReg.exact (s : QReg) : Psi := ⟨s.a0.over s.den, s.a1.over s.den, s.a2.over s.den, s.a3.over s.den⟩

/-- The parameters of a rotation stand for its cosine and sine (R182). -/
theorem cosOf_unitAngle (n : Nat) : cosOf (unitAngle n) = (rotParam n).p / (rotParam n).d := by
  have hd : (18446744073709551616 + (n : ℚ) * n) ≠ 0 := by positivity
  have hu : 1 + unitAngle n * unitAngle n ≠ 0 := by unfold unitAngle; positivity
  rw [cosOf, div_eq_div_iff hu (by simpa [rotParam] using hd)]
  simp only [unitAngle, rotParam]
  push_cast
  ring

theorem sinOf_unitAngle (n : Nat) : sinOf (unitAngle n) = (rotParam n).q / (rotParam n).d := by
  have hd : (18446744073709551616 + (n : ℚ) * n) ≠ 0 := by positivity
  have hu : 1 + unitAngle n * unitAngle n ≠ 0 := by unfold unitAngle; positivity
  rw [sinOf, div_eq_div_iff hu (by simpa [rotParam] using hd)]
  simp only [unitAngle, rotParam]
  push_cast
  ring

/-! ### The four products of a rotation gate (R185) -/

section Gates

variable (n : Nat) (lo hi : GaussInt) (e : Int)

theorem gateLo_ry : gateLo (gateRY (unitAngle n)) (lo.over e) (hi.over e) =
    (ryLo (rotParam n) lo hi).over (e * (rotParam n).d) := by
  simp only [gateLo, gateRY, gAdd, gMul, GaussInt.over, ryLo, cosOf_unitAngle, sinOf_unitAngle, GaussRat.mk.injEq]
  push_cast
  constructor <;> ring

theorem gateHi_ry : gateHi (gateRY (unitAngle n)) (lo.over e) (hi.over e) =
    (ryHi (rotParam n) lo hi).over (e * (rotParam n).d) := by
  simp only [gateHi, gateRY, gAdd, gMul, GaussInt.over, ryHi, cosOf_unitAngle, sinOf_unitAngle, GaussRat.mk.injEq]
  push_cast
  constructor <;> ring

theorem gateLo_rz : gateLo (gateRZ (unitAngle n)) (lo.over e) (hi.over e) =
    (rzLo (rotParam n) lo).over (e * (rotParam n).d) := by
  simp only [gateLo, gateRZ, gAdd, gMul, GaussInt.over, rzLo, cosOf_unitAngle, sinOf_unitAngle, GaussRat.mk.injEq]
  push_cast
  constructor <;> ring

theorem gateHi_rz : gateHi (gateRZ (unitAngle n)) (lo.over e) (hi.over e) =
    (rzHi (rotParam n) hi).over (e * (rotParam n).d) := by
  simp only [gateHi, gateRZ, gAdd, gMul, GaussInt.over, rzHi, cosOf_unitAngle, sinOf_unitAngle, GaussRat.mk.injEq]
  push_cast
  constructor <;> ring

end Gates

/-! ### The register, gate by gate (R183 to R187) -/

section Register

variable (n : Nat) (s : QReg)

theorem exact_ry0 : onQubit0 (gateRY (unitAngle n)) s.exact = (ry0 (rotParam n) s).exact := by
  simp only [onQubit0, QReg.exact, ry0, gateLo_ry, gateHi_ry]

theorem exact_rz0 : onQubit0 (gateRZ (unitAngle n)) s.exact = (rz0 (rotParam n) s).exact := by
  simp only [onQubit0, QReg.exact, rz0, gateLo_rz, gateHi_rz]

theorem exact_ry1 : onQubit1 (gateRY (unitAngle n)) s.exact = (ry1 (rotParam n) s).exact := by
  simp only [onQubit1, QReg.exact, ry1, gateLo_ry, gateHi_ry]

theorem exact_rz1 : onQubit1 (gateRZ (unitAngle n)) s.exact = (rz1 (rotParam n) s).exact := by
  simp only [onQubit1, QReg.exact, rz1, gateLo_rz, gateHi_rz]

theorem exact_cnot : cnotExact s.exact = (cnot s).exact := rfl

end Register

theorem exact_afterHadamards : hadamardPair psiStart = afterHadamards.exact := by
  simp [hadamardPair, psiStart, scale, onQubit0, onQubit1, gateLo, gateHi, gAdd, gMul, hadamardNumerators, QReg.exact,
    GaussInt.over, afterHadamards]

theorem finalPsi_eq_exact (r : Words8) : finalPsi r = (finalReg r).exact := by
  rw [finalPsi, exact_afterHadamards, exact_ry0, exact_rz0, exact_ry1, exact_rz1, exact_cnot, finalReg]

/-! ### The measurement (R188, R190) -/

theorem ampExact_exact (s : QReg) (j : Fin 4) : ampExact s.exact j = (amp s j).over s.den := by
  fin_cases j <;> rfl

theorem probExact_exact (s : QReg) (j : Fin 4) :
    probExact s.exact j = (weight (amp s j) : ℚ) / ((s.den * s.den : Int) : ℚ) := by
  rw [probExact, ampExact_exact]
  simp only [GaussInt.over, weight]
  push_cast
  ring

/-- Probabilities over a common positive denominator are compared by their numerators. -/
theorem outcomeExact_exact {s : QReg} (hden : 0 < s.den) : outcomeExact s.exact = outcome s := by
  have hpos : (0 : ℚ) < ((s.den * s.den : Int) : ℚ) := by exact_mod_cast mul_pos hden hden
  have hmax : maxProb s.exact =
      ((max (max (weight (amp s 0)) (weight (amp s 1))) (max (weight (amp s 2)) (weight (amp s 3))) : Int) : ℚ) /
        ((s.den * s.den : Int) : ℚ) := by
    simp only [maxProb, probExact_exact, max_div_div_right hpos.le, Int.cast_max]
  have hiff (j : Fin 4) (m : Int) : probExact s.exact j = (m : ℚ) / ((s.den * s.den : Int) : ℚ) ↔ weight (amp s j) = m := by
    rw [probExact_exact, div_left_inj' hpos.ne', Int.cast_inj]
  simp only [outcomeExact, hmax, hiff, outcome, firstMax]

theorem floor_div_int (n : Int) {d : Int} (hd : 0 < d) : ⌊(n : ℚ) / (d : ℚ)⌋ = n / d := by
  obtain ⟨k, rfl⟩ := Int.eq_ofNat_of_zero_le hd.le
  exact_mod_cast Rat.floor_intCast_div_natCast n k

theorem probWordExact_exact {s : QReg} (hden : 0 < s.den) (j : Fin 4) :
    probWordExact (probExact s.exact j) = probWord s j := by
  rw [probWordExact, probWord, ← floor_div_int _ (mul_pos hden hden), probExact_exact]
  congr 2
  push_cast
  ring

theorem componentWordExact_over {s : QReg} (hden : 0 < s.den) (n : Int) :
    componentWordExact ((n : ℚ) / (s.den : ℚ)) = componentWord s n := by
  have hne : (s.den : ℚ) ≠ 0 := by exact_mod_cast hden.ne'
  rw [componentWordExact, componentWord, ← floor_div_int _ hden]
  congr 2
  push_cast
  field_simp

/-- Settles O53: the two forms go through the same register, gate by gate, and measure it alike. -/
theorem quantumIntegerFormEqualsExactForm : Obligations.QuantumIntegerFormEqualsExactForm := by
  intro r
  have hden := finalReg_den_pos r
  simp only [qstageExact, refQstage, measure, finalPsi_eq_exact, outcomeExact_exact hden, probWordExact_exact hden,
    ampExact_exact, GaussInt.over, componentWordExact_over hden]

end Sys2Proof.Machine
